-- ==== Sys2Proof/Word.lean ====
section
/-! DEFINITION. The data widths of the block (spec/00_scope.md R9, R10): a wire byte, a 16-bit value and a 24-bit command word. -/

namespace Sys2Proof

/-- A wire datum or a frame-buffer element: an unsigned byte (R9). -/
abbrev Byte := BitVec 8

/-- A 16-bit value: the throttle operand, the scaled throttle, `RES` (R9). -/
abbrev Half := BitVec 16

/-- A command word: `OP` in bits 23..16, `ARG` in bits 15..0 (R80). -/
abbrev CmdWord := BitVec 24

/-- `n` bytes of 0x00 (R12). -/
def zeros (n : Nat) : List Byte := List.replicate n 0x00#8

end Sys2Proof
end

