-- ==== Sys2Proof/Config.lean ====
section
/-! DEFINITION. The configuration: the protocol parameters of spec/00_scope.md R6, the constraints R7 puts on them, the
sizes R8 derives from them, and the document's own values, with the two OPEN codes as opaque constants. -/

namespace Sys2Proof

/-- The protocol parameters of R6, every one an argument of the model. -/
structure Params where
  status1Code  : Byte
  status2Code  : Byte
  status3Code  : Byte
  setValueCode : Byte
  reqQty       : Byte
  thrQty       : Byte
  rspQty1      : Byte
  rspQty2      : Byte
  rspQty3      : Byte
  rspQtyAck    : Byte
  thrFactor    : Nat
deriving DecidableEq, Repr

/-- `RX_BUF_BYTES`, the longest response frame (R8). -/
def Params.rxBufBytes (p : Params) : Nat :=
  max (max p.rspQty1.toNat p.rspQty2.toNat) (max p.rspQty3.toNat p.rspQtyAck.toNat)

/-- `TX_BUF_BYTES`, the longest request frame (R8). -/
def Params.txBufBytes (p : Params) : Nat := p.thrQty.toNat

/-- R7(a): the four codes are pairwise distinct. -/
def Params.codesDistinct (p : Params) : Bool :=
  p.status1Code != p.status2Code && p.status1Code != p.status3Code && p.status1Code != p.setValueCode &&
  p.status2Code != p.status3Code && p.status2Code != p.setValueCode && p.status3Code != p.setValueCode

/-- R7(b): every response length lies in 3..`RX_BUF_BYTES` (the upper bound holds by R8). -/
def Params.responsesFit (p : Params) : Bool :=
  [p.rspQty1, p.rspQty2, p.rspQty3, p.rspQtyAck].all fun q => decide (3 ≤ q.toNat) && decide (q.toNat ≤ p.rxBufBytes)

/-- The constraints R7(a) to R7(d). -/
def Params.ok (p : Params) : Bool :=
  p.codesDistinct && p.responsesFit && p.reqQty == 3#8 && p.thrQty == 23#8 && decide (1 ≤ p.thrFactor)

/-- A configuration: parameters that satisfy R7. Parameters that violate R7 have no configuration, so no state and no step. -/
structure Config where
  params : Params
  valid  : params.ok = true
deriving DecidableEq, Repr

/-- Configuring the block (R7): parameters that violate the constraints are refused. -/
def Config.configure (p : Params) : Option Config :=
  if h : p.ok = true then some ⟨p, h⟩ else none

/-- The two codes that the spec leaves OPEN (spec/92_eei_decisions.md D10), with the only thing it says of them: with the
document's two codes 0x04 and 0xC9 they are pairwise distinct (R7). The field defaults only show that such a pair exists. -/
structure OpenCodes where
  status2 : Byte := 0x00#8
  status3 : Byte := 0x01#8
  distinct : status2 ≠ status3 ∧ status2 ≠ 0x04#8 ∧ status2 ≠ 0xC9#8 ∧ status3 ≠ 0x04#8 ∧ status3 ≠ 0xC9#8 := by decide
deriving Inhabited

/-- The values of `STATUS_2_CODE` and `STATUS_3_CODE`: no body, so nothing but their distinctness can be proved of them.
DESIGN CHOICE, safe (log entry 2). -/
opaque Config.openCodes : OpenCodes

/-- What a read of `TXBUF` at an offset that it does not have gives: the spec gives no byte there (spec/20_memory.md R57), so
no body. DESIGN CHOICE, safe (log entry 10). -/
opaque Config.absentTxByte : Nat → Byte

/-- The same of `RXBUF`. DESIGN CHOICE, safe (log entry 10). -/
opaque Config.absentRxByte : Nat → Byte

/-- What `RX.BYTE` gives for `RXEXPQTY - RXCNT` (spec/42_deserializer.md R170) where that difference is negative: the spec has
no negative value (R11), so no body. DESIGN CHOICE, safe (log entry 11). -/
opaque Config.openRemaining : Byte → Byte → Half

/-- The document's values (R6) around two given codes for STATUS_2 and STATUS_3. -/
def Params.document (status2 status3 : Byte) : Params where
  status1Code  := 0x04#8
  status2Code  := status2
  status3Code  := status3
  setValueCode := 0xC9#8
  reqQty       := 0x03#8
  thrQty       := 0x17#8
  rspQty1      := 0x57#8
  rspQty2      := 0x65#8
  rspQty3      := 0x67#8
  rspQtyAck    := 0x03#8
  thrFactor    := 10

/-- The document's values satisfy R7 for every pair of codes that D10 allows. -/
theorem Params.document_ok (c : OpenCodes) : (Params.document c.status2 c.status3).ok = true := by
  obtain ⟨a, b, h1, h2, h3, h4, h5⟩ := c
  simp [Params.ok, Params.codesDistinct, Params.responsesFit, Params.document, Params.rxBufBytes, h1, h3, h5,
    Ne.symm h2, Ne.symm h4]

/-- The configuration of R6: the document's values, the two OPEN codes left open. -/
def Config.default : Config :=
  ⟨Params.document Config.openCodes.status2 Config.openCodes.status3, Params.document_ok Config.openCodes⟩

end Sys2Proof
end

