-- ==== Sys2Proof/Syntax.lean ====
section
/-! DEFINITION. The syntax: the 19 commands and the 8 wire frame kinds of spec/opcode_table.json, the two encodings an
instruction can have (a command word or a wire frame), and what the host can present at the block's boundary. -/

namespace Sys2Proof

/-- One constructor per row of the opcode table (spec/30_encoding.md R82 for the commands, R76 for the frame kinds). -/
inductive Instr where
  /-- `NOP` (R200). -/
  | nop
  /-- `CSUM.CLR` (R110). -/
  | csumClr
  /-- `CSUM.ADD b` (R111). -/
  | csumAdd (b : Byte)
  /-- `CSUM.RD` (R112). -/
  | csumRd
  /-- `CSUM.GEN` (R113). -/
  | csumGen
  /-- `CSUM.CHK c` (R114). -/
  | csumChk (c : Byte)
  /-- `TX.STATUS c` (R140). -/
  | txStatus (c : Byte)
  /-- `TX.THR raw` (R141). -/
  | txThr (raw : Half)
  /-- `TX.LEN` (R142). -/
  | txLen
  /-- `TX.RD i` (R143). -/
  | txRd (i : Byte)
  /-- `RX.ARM c` (R168). -/
  | rxArm (c : Byte)
  /-- `RX.BYTE b` (R170, R171). -/
  | rxByte (b : Byte)
  /-- `RX.ABORT` (R172). -/
  | rxAbort
  /-- `RX.HDR` (R173). -/
  | rxHdr
  /-- `RX.RD i` (R174). -/
  | rxRd (i : Byte)
  /-- `RX.RD16 off` (R175, R176). -/
  | rxRd16 (off : Byte)
  /-- `RX.QTY c` (R177). -/
  | rxQty (c : Byte)
  /-- `STAT.RD` (R201). -/
  | statRd
  /-- `STAT.CLR` (R202). -/
  | statClr
  /-- The request frame of STATUS_1 (R72): its three bytes are fixed by the configuration. -/
  | reqStatus1
  /-- The request frame of STATUS_2 (R72). -/
  | reqStatus2
  /-- The request frame of STATUS_3 (R72). -/
  | reqStatus3
  /-- The throttle command frame (R73) for the unscaled throttle `raw` (R77). -/
  | reqSetValue (raw : Half)
  /-- The response to STATUS_1 (R74): its payload and the checksum byte as received. -/
  | rspStatus1 (payload : List Byte) (cks : Byte)
  /-- The response to STATUS_2 (R74). -/
  | rspStatus2 (payload : List Byte) (cks : Byte)
  /-- The response to STATUS_3 (R74). -/
  | rspStatus3 (payload : List Byte) (cks : Byte)
  /-- The acknowledgement of the throttle command (R75): no payload, the checksum byte as received. -/
  | rspSetValueAck (cks : Byte)
deriving DecidableEq, Repr

/-- The direction of a frame (R76): within one, the code byte selects the frame kind. -/
inductive Direction where
  /-- Block to ECU: a request. -/
  | request
  /-- ECU to block: a response. -/
  | response
deriving DecidableEq, Repr

/-- What encodes an instruction: a command word (R80) or the bytes of a wire frame in wire order (R50, R70). -/
inductive Encoded where
  /-- A 24-bit command word (R80). -/
  | word (w : CmdWord)
  /-- A whole wire frame, first byte first (R70). -/
  | frame (dir : Direction) (bytes : List Byte)
deriving DecidableEq, Repr

/-- One input of the host (spec/60_exceptions.md R237). -/
inductive PortEvent where
  /-- The host presents an encoded instruction: a command word (spec/43_control.md R204), or a whole frame, in place of
  which the host issues the words of the commands that carry it (spec/00_scope.md R14; log entries 4 and 5). -/
  | present (e : Encoded)
  /-- The host asserts reset (spec/70_reset_and_hazards.md R250). -/
  | reset
deriving DecidableEq, Repr

/-- The pseudo-instructions of spec/30_encoding.md R86: text that stands for several commands. -/
inductive Pseudo where
  /-- `CSUM.OVER b0, ..., bn-1`. -/
  | csumOver (bs : List Byte)
  /-- `RX.FEED b0, ..., bn-1`. -/
  | rxFeed (bs : List Byte)
  /-- `RX.ZEROS n`. -/
  | rxZeros (n : Nat)
  /-- `RX.FRAME c, b0, ..., bn-1`. -/
  | rxFrame (c : Byte) (bs : List Byte)
  /-- `TX.DUMP n`. R86 gives `n` no bound, but the operand of `TX.RD 256` is above the byte class (R81), so an expansion exists
  for `n` up to 256 only; that a greater `n` is no pseudo-instruction is a DESIGN CHOICE, safe (log entry 14). -/
  | txDump (n : Fin 257)
deriving DecidableEq, Repr

end Sys2Proof
end

