-- ==== Sys2Proof/Machine/State.lean ====
section
/-! DEFINITION. The machine's state (spec/10_state.md R20, R26, R34), the reasons a step can stop, and the state after reset. -/

namespace Sys2Proof.Machine

/-- The causes of spec/60_exceptions.md R220. The codes 10 to 15 are reserved and never produced
(spec/93_implementation_defined.md I6), so they have no name here. -/
inductive Cause where
  | none | checksumMismatch | responseTimeout | unexpectedCode | quantityMismatch
  | illegalCommand | badCode | busy | notReady | range
deriving DecidableEq, Repr

/-- The deserializer's state, `RXST` (R27). -/
inductive RxState where
  | idle | armed | doneOk | doneErr
deriving DecidableEq, Repr

/-- The fields of `STATUS` (R26); bits 15..12 are hard-wired 0 and not stored (log entry 8). -/
structure Status where
  rxst    : RxState
  stray   : Bool
  errseen : Bool
  cmderr  : Cause
  rxerr   : Cause
deriving DecidableEq, Repr

/-- The two byte spaces of spec/20_memory.md R57. -/
inductive Space where
  | tx | rx
deriving DecidableEq, Repr

/-- The bytes of one frame buffer: the offsets that do not hold 0x00, strictly rising (log entry 9). -/
structure Memory where
  cells : List Host.Cell
deriving DecidableEq, Repr

/-- Why the model stops with a fault: it never does. The step is total and needs no fault outcome beyond the causes of R220
(spec/43_control.md R205), so this type has no constructor. -/
inductive Fault
deriving DecidableEq, Repr

/-- Why the model refuses. -/
inductive Refusal where
  /-- Raised by an arm of `exec` whose instruction has no meaning yet: none. Safe: the model stops. -/
  | notModelled (mnemonic : String)
  /-- Raised by `step` for a whole-frame transfer whose bytes are none of the eight frame kinds of R76 (log entry 7).
  Safe: the model stops; the same bytes can still be presented as command words. -/
  | notAFrame
deriving DecidableEq, Repr

/-- The state. `cfg` and `port` are the model's own fields (log entries 1 and 3); all others are R20's, in its order. -/
structure State where
  /-- The parameters of R6: arguments of the model, changed by no step (R253). -/
  cfg       : Config
  /-- `ACC` (R22). -/
  acc       : Byte
  /-- `RES` (R23). -/
  res       : Half
  /-- `TXBUF` (R24). -/
  txbuf     : Memory
  /-- `TXLEN` (R24). -/
  txlen     : BitVec 5
  /-- `RXEXPCODE` (R25). -/
  rxexpcode : Byte
  /-- `RXEXPQTY` (R25). -/
  rxexpqty  : Byte
  /-- `RXCNT` (R25). -/
  rxcnt     : Byte
  /-- `RXACC` (R25). -/
  rxacc     : Byte
  /-- `RXBUF` (R25). -/
  rxbuf     : Memory
  /-- `STATUS` (R26). -/
  status    : Status
  /-- What the host has presented and the block not yet taken, oldest first (log entry 3). -/
  port      : List PortEvent
deriving DecidableEq, Repr

/-- `STATUS` after reset: 0x0000 (R34). -/
def Status.reset : Status := ⟨.idle, false, false, .none, .none⟩

/-- The block under configuration `cfg` right after reset (R34), with `port` still to come. -/
def State.resetWith (cfg : Config) (port : List PortEvent) : State where
  cfg       := cfg
  acc       := 0x00#8
  res       := 0x0000#16
  txbuf     := ⟨[]⟩
  txlen     := 0#5
  rxexpcode := 0x00#8
  rxexpqty  := 0x00#8
  rxcnt     := 0#8
  rxacc     := 0x00#8
  rxbuf     := ⟨[]⟩
  status    := Status.reset
  port      := port

/-- The machine after reset (R34, R250): the document's configuration, nothing presented yet. -/
def State.reset : State := State.resetWith Config.default []

end Sys2Proof.Machine
end

