-- ==== Sys2Proof/Machine/Codec.lean ====
section
/-! DEFINITION. The normative pure functions of the codec: the additive checksum (spec/40_checksum.md R100 to R103), the
encode functions (spec/41_serializer.md R130, R131), the response-length table, the frame verdict and the little-endian
field (spec/42_deserializer.md R160 to R164). Every command is defined by calling them (spec/00_scope.md R3). -/

namespace Sys2Proof.Machine

/-- `sum8(bs)`: the sum of the bytes modulo 256 (R100). -/
def sum8 : List Byte → Byte
  | [] => 0x00#8
  | b :: bs => b + sum8 bs

/-- `ck(bs)`: the checksum byte, `(0x100 − sum8(bs)) mod 0x100` (R101). -/
def ck (bs : List Byte) : Byte := BitVec.ofNat 8 (0x100 - (sum8 bs).toNat)

/-- A whole frame passes the checksum (R102). -/
def frameSumOk (f : List Byte) : Bool := sum8 f == 0x00#8

/-- `validate_response` (R103): the checksum verdict alone. -/
def validateResponse (quantity code : Byte) (payload : List Byte) (received : Byte) : Bool :=
  sum8 ([quantity, code] ++ payload ++ [received]) == 0x00#8

/-- `h ++ [ck(h)]`: a frame from the bytes before its checksum (R70). -/
def withChecksum (h : List Byte) : List Byte := h ++ [ck h]

/-- The three status codes, the domain of `encode_status_request` (R130). -/
def isStatusCode (p : Params) (c : Byte) : Bool :=
  c == p.status1Code || c == p.status2Code || c == p.status3Code

/-- The bytes `[REQ_QTY, c, ck([REQ_QTY, c])]` of R72. -/
def statusRequestFrame (p : Params) (c : Byte) : List Byte := withChecksum [p.reqQty, c]

/-- `encode_status_request(c)` (R130), on its domain. -/
def encodeStatusRequest (p : Params) (c : Byte) : Option (List Byte) :=
  if isStatusCode p c then some (statusRequestFrame p c) else none

/-- The frame of R73 for a scaled throttle `s`: low byte, high byte, 18 bytes of padding. -/
def throttleFrame (p : Params) (s : Half) : List Byte :=
  withChecksum ([p.thrQty, p.setValueCode, s.extractLsb' 0 8, s.extractLsb' 8 8] ++ zeros 18)

/-- `encode_throttle_command(raw)` (R131), on its domain: the scaled value fits 16 bits. -/
def encodeThrottleCommand (p : Params) (raw : Half) : Option (List Byte) :=
  if raw.toNat * p.thrFactor ≤ 0xFFFF then some (throttleFrame p (BitVec.ofNat 16 (raw.toNat * p.thrFactor))) else none

/-- `rsp_qty(c)` (R160), on its domain `CODES`. -/
def rspQty (p : Params) (c : Byte) : Option Byte :=
  if c == p.status1Code then some p.rspQty1
  else if c == p.setValueCode then some p.rspQtyAck
  else if c == p.status2Code then some p.rspQty2
  else if c == p.status3Code then some p.rspQty3
  else none

/-- `plen(c) = rsp_qty(c) − 3` (R161). -/
def plen (p : Params) (c : Byte) : Option Nat := (rspQty p c).map fun q => q.toNat - 3

/-- The verdict on a whole frame from its sum, quantity and code bytes: the three tests in the order of R162 and R169. -/
def verdict (sum quantity code expQty expCode : Byte) : Cause :=
  if sum != 0x00#8 then .checksumMismatch
  else if quantity != expQty then .quantityMismatch
  else if code != expCode then .unexpectedCode
  else .none

/-- The payload `f[2 .. q−2]` of a frame of `q` bytes (R57, R162). -/
def payloadOf (q : Byte) (f : List Byte) : List Byte := (f.drop 2).take (q.toNat - 3)

/-- The answer of `deframe` on a verdict: the payload on NONE, else the cause (R162). -/
def verdictAnswer (q : Byte) (f : List Byte) : Cause → Except Cause (List Byte)
  | .none => .ok (payloadOf q f)
  | e => .error e

/-- `deframe(c, f)` (R162), on its domain: a code `c` of R160 and a byte sequence `f` of length `rsp_qty(c)`. Outside this
domain R162 defines nothing, and that the model writes this as no answer (`none`) is its choice: DESIGN CHOICE, safe (log
entry 18). No command calls the function outside its domain. -/
def deframe (p : Params) (c : Byte) (f : List Byte) : Option (Except Cause (List Byte)) :=
  match rspQty p c, f with
  | some q, quantity :: code :: _ =>
    if f.length = q.toNat then some (verdictAnswer q f (verdict (sum8 f) quantity code q c)) else none
  | _, _ => none

/-- `low | (high << 8)` (R51, R164). -/
def le16Of (low high : Byte) : Half := low.setWidth 16 ||| (high.setWidth 16 <<< 8)

/-- `le16(p, off)` (R164), on its domain `off + 1 < len(p)`. -/
def le16 (p : List Byte) (off : Nat) : Option Half :=
  match p[off]?, p[off + 1]? with
  | some low, some high => some (le16Of low high)
  | _, _ => none

end Sys2Proof.Machine
end

