-- ==== Sys2Proof/Machine/Flags.lean ====
section
/-! DEFINITION. `STATUS`: the codes of its fields (spec/10_state.md R26, R27, spec/60_exceptions.md R220), the word that
`STAT.RD` reads, and the updates of single fields. -/

namespace Sys2Proof.Machine

/-- The 4-bit cause code (R220). -/
def Cause.code : Cause → BitVec 4
  | .none             => 0#4
  | .checksumMismatch => 1#4
  | .responseTimeout  => 2#4
  | .unexpectedCode   => 3#4
  | .quantityMismatch => 4#4
  | .illegalCommand   => 5#4
  | .badCode          => 6#4
  | .busy             => 7#4
  | .notReady         => 8#4
  | .range            => 9#4

/-- The 2-bit code of `RXST` (R27). -/
def RxState.code : RxState → BitVec 2
  | .idle    => 0#2
  | .armed   => 1#2
  | .doneOk  => 2#2
  | .doneErr => 3#2

/-- The `STATUS` word (R26): bits 15..12 read 0, then `RXERR`, `CMDERR`, `ERRSEEN`, `STRAY`, `RXST`. -/
def Status.toWord (st : Status) : Half :=
  0#4 ++ st.rxerr.code ++ st.cmderr.code ++ BitVec.ofBool st.errseen ++ BitVec.ofBool st.stray ++ st.rxst.code

/-- A frame is complete: the states in which `RX.HDR` may read (R173). -/
def RxState.done : RxState → Bool
  | .doneOk | .doneErr => true
  | .idle | .armed => false

/-- `CMDERR <- 0`, `ERRSEEN` kept (R222). -/
def Status.succeed (st : Status) : Status := { st with cmderr := .none }

/-- `CMDERR <- E`, `ERRSEEN <- 1` (R223). -/
def Status.fail (st : Status) (e : Cause) : Status := { st with cmderr := e, errseen := true }

/-- The verdict `e` of a complete frame (R169): `RXERR <- e`, `RXST` to one of the DONE states, `ERRSEEN <- 1` on a rejection. -/
def Status.judge (st : Status) (e : Cause) : Status :=
  { st with
    rxerr   := e
    rxst    := if e = .none then .doneOk else .doneErr
    errseen := st.errseen || (e != .none) }

/-- `RX.ABORT` (R172): back to IDLE; while ARMED it records RESPONSE_TIMEOUT and sets `ERRSEEN`. -/
def Status.abort (st : Status) : Status :=
  match st.rxst with
  | .armed => { st with rxst := .idle, rxerr := .responseTimeout, errseen := true }
  | .idle | .doneOk | .doneErr => { st with rxst := .idle }

/-- `RX.ARM` (R168): `RXERR <- 0`, `RXST <- ARMED`. -/
def Status.arm (st : Status) : Status := { st with rxerr := .none, rxst := .armed }

/-- `STRAY <- 1` (R171). -/
def Status.markStray (st : Status) : Status := { st with stray := true }

/-- `STRAY <- 0`, `ERRSEEN <- 0` (R202). -/
def Status.clearSticky (st : Status) : Status := { st with stray := false, errseen := false }

end Sys2Proof.Machine
end

