-- ==== Sys2Proof/Machine/Operands.lean ====
section
/-! DEFINITION. Operand classes (spec/30_encoding.md R81), the opcode map (R82), and how a command's operand becomes an
offset (spec/20_memory.md R57, R58). -/

namespace Sys2Proof.Machine

/-- `OP = w[23:16]` (R80). -/
def opOf (w : CmdWord) : Byte := w.extractLsb' 16 8

/-- `ARG = w[15:0]` (R80). -/
def argOf (w : CmdWord) : Half := w.extractLsb' 0 16

/-- The word `(OP << 16) | ARG` (R80, R85). -/
def cmdWord (op : Byte) (arg : Half) : CmdWord := op ++ arg

/-- The operand classes of R81, each with the command it spells from its operand. -/
inductive Form where
  /-- Class none: `ARG` must be 0x0000. -/
  | none (i : Instr)
  /-- Class byte: `ARG[15:8]` must be 0x00, the operand is `ARG[7:0]`. -/
  | byte (f : Byte → Instr)
  /-- Class half: the operand is all of `ARG`. -/
  | half (f : Half → Instr)

/-- The opcode map of R82; every opcode not listed is reserved (R84). -/
def opcodeForm (op : Byte) : Option Form :=
  match op.toNat with
  | 0x00 => some (.none .nop)
  | 0x01 => some (.none .csumClr)
  | 0x02 => some (.byte .csumAdd)
  | 0x03 => some (.none .csumRd)
  | 0x04 => some (.none .csumGen)
  | 0x05 => some (.byte .csumChk)
  | 0x10 => some (.byte .txStatus)
  | 0x11 => some (.half .txThr)
  | 0x12 => some (.none .txLen)
  | 0x13 => some (.byte .txRd)
  | 0x20 => some (.byte .rxArm)
  | 0x21 => some (.byte .rxByte)
  | 0x22 => some (.none .rxAbort)
  | 0x23 => some (.none .rxHdr)
  | 0x24 => some (.byte .rxRd)
  | 0x25 => some (.byte .rxRd16)
  | 0x26 => some (.byte .rxQty)
  | 0x30 => some (.none .statRd)
  | 0x31 => some (.none .statClr)
  | _    => none

/-- The frame offset of payload byte `i` (R57). -/
def payloadOffset (i : Nat) : Nat := 2 + i

/-- `i < q − 3`: payload byte `i` exists in a frame of quantity `q` (R58, over the integers: R11). -/
def payloadHas (q : Byte) (i : Nat) : Bool := decide (i + 3 < q.toNat)

end Sys2Proof.Machine
end

