-- ==== Sys2Proof/Machine/Ops.lean ====
section
/-! DEFINITION. The shared operations: reads and writes of the frame buffers (spec/00_scope.md R12, spec/20_memory.md),
completing a command (spec/60_exceptions.md R222), failing one (R223), and what the serializer and the deserializer do. -/

namespace Sys2Proof.Machine

/-! ### The bytes of a buffer -/

/-- What an unlisted offset reads as: 0x00, the contents of both buffers after reset (R34). -/
def unlistedByte : Byte := 0x00#8

/-- The byte at an offset of a list of cells. -/
def lookupCell : List Host.Cell → Nat → Byte
  | [], _ => unlistedByte
  | (k, v) :: cs, a => if k = a then v else lookupCell cs a

/-- `buf[a]` (R12). -/
def Memory.read (m : Memory) (a : Nat) : Byte := lookupCell m.cells a

/-- A cell in front, unless it says what an unlisted offset says. -/
def consCell (a : Nat) (b : Byte) (cs : List Host.Cell) : List Host.Cell :=
  if b = unlistedByte then cs else (a, b) :: cs

/-- The cells after `buf[a] <- b`, in canonical form. -/
def insertCell : List Host.Cell → Nat → Byte → List Host.Cell
  | [], a, b => consCell a b []
  | (k, v) :: cs, a, b =>
    if a < k then consCell a b ((k, v) :: cs)
    else if a = k then consCell a b cs
    else (k, v) :: insertCell cs a b

/-- `buf[a] <- b` (R12). -/
def Memory.write (m : Memory) (a : Nat) (b : Byte) : Memory := ⟨insertCell m.cells a b⟩

/-- All bytes 0x00. -/
def Memory.empty : Memory := ⟨[]⟩

/-- `buf[a .. a+len(bs)−1] <- bs`. -/
def Memory.writeBytes (m : Memory) (a : Nat) : List Byte → Memory
  | [] => m
  | b :: bs => (m.write a b).writeBytes (a + 1) bs

/-- A buffer whose first bytes are `bs`, all others 0x00. -/
def Memory.ofBytes (bs : List Byte) : Memory := Memory.empty.writeBytes 0 bs

/-- The bytes `buf[a .. a+n−1]`. -/
def Memory.bytes (m : Memory) (a : Nat) : Nat → List Byte
  | 0 => []
  | n + 1 => m.read a :: m.bytes (a + 1) n

/-- Cells strictly rising from `low`, none of them an unlisted offset's value. -/
def cellsRise (low : Nat) : List Host.Cell → Bool
  | [] => true
  | (k, v) :: cs => decide (low ≤ k) && v != unlistedByte && cellsRise (k + 1) cs

/-- The canonical form. -/
def Memory.wf (m : Memory) : Bool := cellsRise 0 m.cells

/-- Every listed offset is one of the `n` offsets of the buffer. -/
def Memory.within (m : Memory) (n : Nat) : Bool := m.cells.all fun c => decide (c.1 < n)

/-- The buffer of a space. -/
def State.buffer (s : State) : Space → Memory
  | .tx => s.txbuf
  | .rx => s.rxbuf

/-- The number of offsets of a space (R8, R57). -/
def State.bufferBytes (s : State) : Space → Nat
  | .tx => s.cfg.params.txBufBytes
  | .rx => s.cfg.params.rxBufBytes

/-- What stands at an offset that a buffer does not have: a free value (log entry 10). -/
def absentByte : Space → Nat → Byte
  | .tx => Config.absentTxByte
  | .rx => Config.absentRxByte

/-- The byte of a space at an offset. Every offset that a run can reach exists (R32); R205 has no state lack a step, so an
offset that does not exist has a byte too, a free one. -/
def State.byteAt (s : State) (sp : Space) (i : Nat) : Byte :=
  if i < s.bufferBytes sp then (s.buffer sp).read i else absentByte sp i

/-- `MemRead(space, i, n)` (R12): the unsigned little-endian value. -/
def memRead (s : State) (sp : Space) (i : Nat) : Nat → Nat
  | 0 => 0
  | n + 1 => (s.byteAt sp i).toNat + 256 * memRead s sp (i + 1) n

/-- `MemWrite(RX, i, 1, b)` (R12, R55), the only buffer write a host's byte makes. An offset that does not exist holds
nothing to write (log entry 10). -/
def rxWrite (s : State) (i : Nat) (b : Byte) : State :=
  if i < s.bufferBytes .rx then { s with rxbuf := s.rxbuf.write i b } else s

/-! ### Completing and failing -/

/-- `ok(v)` (R12, R222): `RES <- v`, `CMDERR <- 0`. -/
def completeWith (v : Half) (s : State) : State := { s with res := v, status := s.status.succeed }

/-- `raise E` (R12, R223, R227), which is all that taking an exception does on this block: `RES <- 0x0000`,
`CMDERR <- E`, `ERRSEEN <- 1`; nothing else changes. There is no return from it (R228). -/
def raiseCause (e : Cause) (s : State) : State := { s with res := 0x0000#16, status := s.status.fail e }

/-- `ok(MemRead(sp, i, n))` (R12, R222). -/
def completeWithRead (sp : Space) (i n : Nat) (s : State) : State := completeWith (BitVec.ofNat 16 (memRead s sp i n)) s

/-! ### The serializer -/

/-- `TXBUF <- f` and zeros behind it, `TXLEN <- n` (R140, R141). -/
def loadTx (f : List Byte) (n : BitVec 5) (s : State) : State := { s with txbuf := Memory.ofBytes f, txlen := n }

/-- Serialize the status request of code `c`, or BAD_CODE (R140). -/
def serializeStatus (c : Byte) (s : State) : State :=
  match encodeStatusRequest s.cfg.params c with
  | some f => completeWith 0x0000#16 (loadTx f 3#5 s)
  | none => raiseCause .badCode s

/-- Serialize the throttle command of `raw`, or RANGE (R141). -/
def serializeThrottle (raw : Half) (s : State) : State :=
  match encodeThrottleCommand s.cfg.params raw with
  | some f => completeWith 0x0000#16 (loadTx f 23#5 s)
  | none => raiseCause .range s

/-! ### The deserializer -/

/-- `RXCNT <- 0; RXACC <- 0x00; RXBUF <- zeros` (R168, R172). -/
def clearFrame (s : State) : State := { s with rxcnt := 0#8, rxacc := 0x00#8, rxbuf := Memory.empty }

/-- Arm for the response to a request of code `c` (R168): BAD_CODE is tested first, then BUSY. -/
def armFor (c : Byte) (s : State) : State :=
  match rspQty s.cfg.params c with
  | none => raiseCause .badCode s
  | some q =>
    if s.status.rxst = .armed then raiseCause .busy s
    else completeWith (q.setWidth 16)
      { clearFrame s with rxexpcode := c, rxexpqty := q, status := s.status.arm }

/-- The frame verdict (R169), taken when the last byte is in. -/
def judgeFrame (s : State) : State :=
  { s with status := s.status.judge (verdict s.rxacc (s.rxbuf.read 0) (s.rxbuf.read 1) s.rxexpqty s.rxexpcode) }

/-- The verdict when `RXCNT` has reached `RXEXPQTY`, nothing before (R170). -/
def judgeIfComplete (s : State) : State := if s.rxcnt = s.rxexpqty then judgeFrame s else s

/-- `zext_16(RXEXPQTY - RXCNT)` (R170): the bytes still expected; a free value where the difference is negative, which no run
reaches (R32; log entry 11). -/
def remaining (q cnt : Byte) : Half :=
  if cnt.toNat ≤ q.toNat then (q - cnt).setWidth 16 else Config.openRemaining q cnt

/-- Take one response byte while ARMED (R170). -/
def takeByte (b : Byte) (s : State) : State :=
  let t := rxWrite s s.rxcnt.toNat b
  let u := judgeIfComplete { t with rxacc := t.rxacc + b, rxcnt := t.rxcnt + 1#8 }
  completeWith (remaining u.rxexpqty u.rxcnt) u

/-- Drop a byte that nothing is armed for (R171). -/
def dropStray (s : State) : State := completeWith 0x0000#16 { s with status := s.status.markStray }

/-- One byte offered to the deserializer: taken while ARMED, stray otherwise (R205). -/
def offerByte (b : Byte) (s : State) : State :=
  match s.status.rxst with
  | .armed => takeByte b s
  | .idle | .doneOk | .doneErr => dropStray s

/-! ### Reset -/

/-- Reset (R250): every piece of the block's state at its value of R34. The parameters stay (R253), and so does what the
host has still to present (log entry 12). -/
def assertReset (s : State) : State := State.resetWith s.cfg s.port

end Sys2Proof.Machine
end

