-- ==== Sys2Proof/Machine/Checksum.lean ====
section
/-! DEFINITION. The commands of the checksum unit (spec/40_checksum.md R110 to R114). -/

namespace Sys2Proof.Machine

/-- `CSUM.CLR` (R110): `ACC <- 0x00; ok(0x0000)`. -/
def execCsumClr (s : State) : Host.Outcome State Fault Refusal :=
  .next (completeWith 0x0000#16 { s with acc := 0x00#8 })

/-- `CSUM.ADD b` (R111): `ACC <- (ACC + b) mod 256; ok(0x0000)`. -/
def execCsumAdd (b : Byte) (s : State) : Host.Outcome State Fault Refusal :=
  .next (completeWith 0x0000#16 { s with acc := s.acc + b })

/-- `CSUM.RD` (R112): `ok(zext_16(ACC))`. -/
def execCsumRd (s : State) : Host.Outcome State Fault Refusal :=
  .next (completeWith (s.acc.setWidth 16) s)

/-- `CSUM.GEN` (R113): `ok(zext_16((0x100 − ACC) mod 0x100))`. -/
def execCsumGen (s : State) : Host.Outcome State Fault Refusal :=
  .next (completeWith (BitVec.ofNat 16 ((0x100 - s.acc.toNat) % 0x100)) s)

/-- `CSUM.CHK c` (R114): 1 if `(ACC + c) mod 256 = 0`, else 0; a mismatch is a result, not a failure. -/
def execCsumChk (c : Byte) (s : State) : Host.Outcome State Fault Refusal :=
  .next (completeWith (if s.acc + c = 0x00#8 then 0x0001#16 else 0x0000#16) s)

end Sys2Proof.Machine
end

