-- ==== Sys2Proof/Machine/Control.lean ====
section
/-! DEFINITION. The control commands (spec/43_control.md R200 to R202) and the execution of an illegal word (R203). -/

namespace Sys2Proof.Machine

/-- `NOP` (R200): no state changes. -/
def execNop (s : State) : Host.Outcome State Fault Refusal := .next s

/-- `STAT.RD` (R201): `RES <- STATUS`; no other state changes. -/
def execStatRd (s : State) : Host.Outcome State Fault Refusal := .next { s with res := s.status.toWord }

/-- `STAT.CLR` (R202): `STRAY <- 0; ERRSEEN <- 0; ok(0x0000)`. -/
def execStatClr (s : State) : Host.Outcome State Fault Refusal :=
  .next (completeWith 0x0000#16 { s with status := s.status.clearSticky })

/-- An illegal command word (R203): `raise ILLEGAL_COMMAND`. -/
def execIllegal (s : State) : Host.Outcome State Fault Refusal := .next (raiseCause .illegalCommand s)

end Sys2Proof.Machine
end

