-- ==== Sys2Proof/Machine/Deserializer.lean ====
section
/-! DEFINITION. The commands of the deserializer (spec/42_deserializer.md R168 to R177). -/

namespace Sys2Proof.Machine

/-- `RX.ARM c` (R168). -/
def execRxArm (c : Byte) (s : State) : Host.Outcome State Fault Refusal := .next (armFor c s)

/-- `RX.BYTE b` (R170 while ARMED, R171 otherwise). -/
def execRxByte (b : Byte) (s : State) : Host.Outcome State Fault Refusal := .next (offerByte b s)

/-- `RX.ABORT` (R172): the frame is dropped; `RXEXPCODE` and `RXEXPQTY` stay. -/
def execRxAbort (s : State) : Host.Outcome State Fault Refusal :=
  .next (completeWith 0x0000#16 { clearFrame s with status := s.status.abort })

/-- `RX.HDR` (R173): NOT_READY unless a frame is complete, else code and quantity bytes. -/
def execRxHdr (s : State) : Host.Outcome State Fault Refusal :=
  if s.status.rxst.done then .next (completeWithRead .rx 0 2 s)
  else .next (raiseCause .notReady s)

/-- `RX.RD i` (R174): NOT_READY unless DONE_OK, then RANGE beyond the payload, else the payload byte. -/
def execRxRd (i : Byte) (s : State) : Host.Outcome State Fault Refusal :=
  if s.status.rxst ≠ .doneOk then .next (raiseCause .notReady s)
  else if payloadHas s.rxexpqty i.toNat then .next (completeWithRead .rx (payloadOffset i.toNat) 1 s)
  else .next (raiseCause .range s)

/-- `RX.RD16 off` (R175, R176): as `RX.RD`, for the two bytes at `off` and `off + 1`, at any alignment. -/
def execRxRd16 (off : Byte) (s : State) : Host.Outcome State Fault Refusal :=
  if s.status.rxst ≠ .doneOk then .next (raiseCause .notReady s)
  else if payloadHas s.rxexpqty (off.toNat + 1) then .next (completeWithRead .rx (payloadOffset off.toNat) 2 s)
  else .next (raiseCause .range s)

/-- `RX.QTY c` (R177): the response length of a code, or BAD_CODE. -/
def execRxQty (c : Byte) (s : State) : Host.Outcome State Fault Refusal :=
  .next (match rspQty s.cfg.params c with
    | some q => completeWith (q.setWidth 16) s
    | none => raiseCause .badCode s)

end Sys2Proof.Machine
end

