-- ==== Sys2Proof/WellFormed.lean ====
section
/-! DEFINITION. Well-formed instructions. Every command is well formed: its operand type admits exactly the operands of its
class (spec/30_encoding.md R81). A frame is well formed when it is one of R72 to R76 under the parameters. -/

namespace Sys2Proof

/-- A response payload has `quantity − 3` bytes (R71, R74). -/
def payloadFits (q : Byte) (payload : List Byte) : Bool := decide (payload.length + 3 = q.toNat)

/-- An acknowledgement has no payload (R75), so its frame is three bytes. -/
def ackFits (p : Params) : Bool := decide (p.rspQtyAck.toNat = 3)

/-- The throttle is in the domain of `encode_throttle_command` (R77, R131). -/
def throttleFits (p : Params) (raw : Half) : Bool := decide (raw.toNat * p.thrFactor ≤ 0xFFFF)

/-- The check of one instruction under the parameters. -/
def WellFormed (p : Params) : Instr → Bool
  | .nop | .csumClr | .csumAdd _ | .csumRd | .csumGen | .csumChk _ => true
  | .txStatus _ | .txThr _ | .txLen | .txRd _ => true
  | .rxArm _ | .rxByte _ | .rxAbort | .rxHdr | .rxRd _ | .rxRd16 _ | .rxQty _ => true
  | .statRd | .statClr => true
  | .reqStatus1 | .reqStatus2 | .reqStatus3 => true
  | .reqSetValue raw => throttleFits p raw
  | .rspStatus1 payload _ => payloadFits p.rspQty1 payload
  | .rspStatus2 payload _ => payloadFits p.rspQty2 payload
  | .rspStatus3 payload _ => payloadFits p.rspQty3 payload
  | .rspSetValueAck _ => ackFits p

end Sys2Proof
end

