-- ==== Sys2Proof/Decode.lean ====
section
/-! DEFINITION. Decoding and encoding. A command word decodes as spec/30_encoding.md R83 says, total on every 24-bit word;
a wire frame decodes by its code within its direction (R76), and only if it is that frame (R70 to R75). -/

namespace Sys2Proof

open Sys2Proof.Machine

/-- Why a command word is Illegal (R83, R84). -/
inductive Illegal where
  /-- The opcode is not in the map of R82. -/
  | reservedOpcode (op : Byte)
  /-- An operand bit that the class forbids is set (R81). -/
  | operandBits (op : Byte) (arg : Half)
deriving DecidableEq, Repr

/-- Why the bytes of a transfer are no frame of the direction's kinds. -/
inductive NotFrame where
  /-- Fewer than two bytes: no code. -/
  | short
  /-- The code names no frame kind (R79(c)). -/
  | code (c : Byte)
  /-- The quantity byte is not the kind's (R71, R76). -/
  | quantity (q : Byte)
  /-- The number of bytes is not the quantity (R71). -/
  | length (n : Nat)
  /-- A request that the serializer does not build: padding, throttle or checksum (R72, R73). -/
  | body
deriving DecidableEq, Repr

/-- What decoding answers for an encoding that is no instruction. -/
inductive Reject where
  | illegal (why : Illegal)
  | notFrame (why : NotFrame)
deriving DecidableEq, Repr

/-! ### Command words -/

/-- `decode(w)` of R83. -/
def decodeWord (w : CmdWord) : Except Illegal Instr :=
  match opcodeForm (opOf w) with
  | none => .error (.reservedOpcode (opOf w))
  | some (.none i) => if argOf w = 0#16 then .ok i else .error (.operandBits (opOf w) (argOf w))
  | some (.byte f) =>
    if (argOf w).extractLsb' 8 8 = 0#8 then .ok (f ((argOf w).extractLsb' 0 8))
    else .error (.operandBits (opOf w) (argOf w))
  | some (.half f) => .ok (f (argOf w))

/-! ### Wire frames -/

/-- The request frame of bytes `bs` with code `c`, if the serializer builds exactly these bytes (R72, R73). -/
def decodeRequest (p : Params) (bs : List Byte) : Except NotFrame Instr :=
  match bs with
  | q :: c :: rest =>
    if c = p.status1Code then
      if q ≠ p.reqQty then .error (.quantity q)
      else if bs = statusRequestFrame p c then .ok .reqStatus1 else .error .body
    else if c = p.setValueCode then
      if q ≠ p.thrQty then .error (.quantity q)
      else
        let s : Half := rest.getD 1 0x00#8 ++ rest.getD 0 0x00#8
        if bs = throttleFrame p s ∧ s.toNat % p.thrFactor = 0 then
          .ok (.reqSetValue (BitVec.ofNat 16 (s.toNat / p.thrFactor)))
        else .error .body
    else if c = p.status2Code then
      if q ≠ p.reqQty then .error (.quantity q)
      else if bs = statusRequestFrame p c then .ok .reqStatus2 else .error .body
    else if c = p.status3Code then
      if q ≠ p.reqQty then .error (.quantity q)
      else if bs = statusRequestFrame p c then .ok .reqStatus3 else .error .body
    else .error (.code c)
  | _ => .error .short

/-- A response of quantity `q` whose bytes after the header are `rest`: payload and checksum, of the right number. -/
def decodeResponseBody (expected q : Byte) (rest : List Byte) (f : List Byte → Byte → Instr) : Except NotFrame Instr :=
  if q ≠ expected then .error (.quantity q)
  else if rest.length + 2 ≠ q.toNat then .error (.length (rest.length + 2))
  else .ok (f rest.dropLast (rest.getLastD 0x00#8))

/-- The response frame of bytes `bs`; its payload and checksum bytes may be any (R79(b)). -/
def decodeResponse (p : Params) (bs : List Byte) : Except NotFrame Instr :=
  match bs with
  | q :: c :: rest =>
    if c = p.status1Code then decodeResponseBody p.rspQty1 q rest .rspStatus1
    else if c = p.setValueCode then
      if ackFits p then decodeResponseBody p.rspQtyAck q rest fun _ k => .rspSetValueAck k
      else .error (.length (rest.length + 2))
    else if c = p.status2Code then decodeResponseBody p.rspQty2 q rest .rspStatus2
    else if c = p.status3Code then decodeResponseBody p.rspQty3 q rest .rspStatus3
    else .error (.code c)
  | _ => .error .short

/-- Within its direction a frame is read by its code (R76). -/
def decodeFrame (p : Params) (dir : Direction) (bs : List Byte) : Except NotFrame Instr :=
  match dir with
  | .request => decodeRequest p bs
  | .response => decodeResponse p bs

/-- Decoding, total on everything the host can present. -/
def decode (p : Params) (e : Encoded) : Except Reject Instr :=
  match e with
  | .word w =>
    match decodeWord w with
    | .ok i => .ok i
    | .error why => .error (.illegal why)
  | .frame dir bs =>
    match decodeFrame p dir bs with
    | .ok i => .ok i
    | .error why => .error (.notFrame why)

/-! ### Encoding -/

/-- `ARG` of an operand byte: zero-extended (R81). -/
def byteArg (b : Byte) : Half := b.setWidth 16

/-- The encoding of an instruction: the word of R82 and R85, or the frame of R72 to R75. -/
def encode (p : Params) (i : Instr) : Encoded :=
  match i with
  | .nop         => .word (cmdWord 0x00#8 0#16)
  | .csumClr     => .word (cmdWord 0x01#8 0#16)
  | .csumAdd b   => .word (cmdWord 0x02#8 (byteArg b))
  | .csumRd      => .word (cmdWord 0x03#8 0#16)
  | .csumGen     => .word (cmdWord 0x04#8 0#16)
  | .csumChk c   => .word (cmdWord 0x05#8 (byteArg c))
  | .txStatus c  => .word (cmdWord 0x10#8 (byteArg c))
  | .txThr raw   => .word (cmdWord 0x11#8 raw)
  | .txLen       => .word (cmdWord 0x12#8 0#16)
  | .txRd k      => .word (cmdWord 0x13#8 (byteArg k))
  | .rxArm c     => .word (cmdWord 0x20#8 (byteArg c))
  | .rxByte b    => .word (cmdWord 0x21#8 (byteArg b))
  | .rxAbort     => .word (cmdWord 0x22#8 0#16)
  | .rxHdr       => .word (cmdWord 0x23#8 0#16)
  | .rxRd k      => .word (cmdWord 0x24#8 (byteArg k))
  | .rxRd16 off  => .word (cmdWord 0x25#8 (byteArg off))
  | .rxQty c     => .word (cmdWord 0x26#8 (byteArg c))
  | .statRd      => .word (cmdWord 0x30#8 0#16)
  | .statClr     => .word (cmdWord 0x31#8 0#16)
  | .reqStatus1  => .frame .request (statusRequestFrame p p.status1Code)
  | .reqStatus2  => .frame .request (statusRequestFrame p p.status2Code)
  | .reqStatus3  => .frame .request (statusRequestFrame p p.status3Code)
  | .reqSetValue raw => .frame .request (throttleFrame p (BitVec.ofNat 16 (raw.toNat * p.thrFactor)))
  | .rspStatus1 payload k => .frame .response ([p.rspQty1, p.status1Code] ++ payload ++ [k])
  | .rspStatus2 payload k => .frame .response ([p.rspQty2, p.status2Code] ++ payload ++ [k])
  | .rspStatus3 payload k => .frame .response ([p.rspQty3, p.status3Code] ++ payload ++ [k])
  | .rspSetValueAck k => .frame .response [p.rspQtyAck, p.setValueCode, k]

/-! ### The opcode table's own words -/

/-- A row's header (quantity in the high byte, code in the low byte) completed to the whole frame the row describes: data
bytes of zero, and last the checksum that the row's own field computes from the others (log entry 6). -/
def tableFrame (header : Nat) : List Byte :=
  withChecksum ([BitVec.ofNat 8 (header / 256), BitVec.ofNat 8 header] ++ zeros (header / 256 % 256 - 3))

/-- The direction in which these bytes are a frame: a request if they are one, else a response. -/
def tableDirection (p : Params) (bs : List Byte) : Direction :=
  match decodeRequest p bs with
  | .ok _ => .request
  | .error _ => .response

/-- What the opcode table's bits `w` of an `nbits`-bit row present: 24 bits are a command word, 16 bits a frame's header. -/
def tableEncoded (p : Params) (nbits w : Nat) : Encoded :=
  if nbits = 16 then .frame (tableDirection p (tableFrame w)) (tableFrame w) else .word (BitVec.ofNat 24 w)

/-- The instruction that the decoder reads from the table's bits `w`, under the default configuration. -/
def decodeTableWord (nbits w : Nat) : Option Instr :=
  if nbits ≠ 16 ∧ nbits ≠ 24 ∨ 2 ^ nbits ≤ w then none
  else
    match decode Config.default.params (tableEncoded Config.default.params nbits w) with
    | .ok i => some i
    | .error _ => none

end Sys2Proof
end

