-- ==== Sys2Proof/Machine/Pseudo.lean ====
section
/-! DEFINITION. Commands as words: the word of a command, the pseudo-instructions (spec/30_encoding.md R86), and the host
issuing several commands (spec/00_scope.md R14). -/

namespace Sys2Proof.Machine

/-- The command word of an instruction, if it is a command. -/
def wordOf (p : Params) (i : Instr) : Option CmdWord :=
  match encode p i with
  | .word w => some w
  | .frame _ _ => none

/-- The command words of a list of commands. -/
def wordsOf (p : Params) (is : List Instr) : List CmdWord := is.filterMap (wordOf p)

/-- The expansion of a pseudo-instruction (R86). The operands of `TX.DUMP n` are 0 to `n − 1`, none of them above 0xFF because
`n` is at most 256. DESIGN CHOICE, safe (log entry 14): that bound, and that an empty byte list or `n` = 0, which R86 neither
writes nor excludes, gives no command for the list or the count. -/
def expandPseudo : Pseudo → List Instr
  | .csumOver bs => .csumClr :: bs.map .csumAdd
  | .rxFeed bs => bs.map .rxByte
  | .rxZeros n => List.replicate n (.rxByte 0x00#8)
  | .rxFrame c bs => .rxArm c :: bs.map .rxByte
  | .txDump n => (List.range n.val).map fun i => .txRd (BitVec.ofNat 8 i)

/-- The host issues commands: their words become the next inputs, in order, before what it has already presented (log entry
3). No state of the block changes; each word executes in a step of its own. -/
def issueCommands (is : List Instr) (s : State) : State :=
  { s with port := (wordsOf s.cfg.params is).map (fun w => .present (.word w)) ++ s.port }

/-- The bytes of a response frame (R70, R74): quantity, code, payload, and the checksum byte as received. -/
def responseBytes (q c : Byte) (payload : List Byte) (cks : Byte) : List Byte := [q, c] ++ payload ++ [cks]

/-- The host offers the bytes of a response frame in wire order, by `RX.BYTE` commands (R14, R50, R86). -/
def issueResponse (q c : Byte) (payload : List Byte) (cks : Byte) (s : State) : State :=
  issueCommands (expandPseudo (.rxFeed (responseBytes q c payload cks))) s

end Sys2Proof.Machine
end

