-- ==== Sys2Proof/Machine/Frames.lean ====
section
/-! DEFINITION. The eight wire frame kinds (spec/30_encoding.md R72 to R76). A frame is no command, and the block takes and
gives frames by commands only (spec/00_scope.md R14): the meaning of a frame is that the host issues the commands that carry
it. A request frame, block to ECU, is built by a TX command (log entry 4); the bytes of a response frame, ECU to block, are
offered by RX.BYTE commands (log entry 5). The block's own state changes only when those commands execute. -/

namespace Sys2Proof.Machine

/-- REQ_STATUS_1 (R72): `TX.STATUS` of STATUS_1 (R130, R140). -/
def execReqStatus1 (s : State) : Host.Outcome State Fault Refusal :=
  .next (issueCommands [.txStatus s.cfg.params.status1Code] s)

/-- REQ_STATUS_2 (R72). -/
def execReqStatus2 (s : State) : Host.Outcome State Fault Refusal :=
  .next (issueCommands [.txStatus s.cfg.params.status2Code] s)

/-- REQ_STATUS_3 (R72). -/
def execReqStatus3 (s : State) : Host.Outcome State Fault Refusal :=
  .next (issueCommands [.txStatus s.cfg.params.status3Code] s)

/-- REQ_SET_VALUE (R73): `TX.THR` of its throttle (R131, R141). -/
def execReqSetValue (raw : Half) (s : State) : Host.Outcome State Fault Refusal :=
  .next (issueCommands [.txThr raw] s)

/-- RSP_STATUS_1 (R74): `RX.BYTE` of each of its bytes, in wire order (R50). -/
def execRspStatus1 (payload : List Byte) (cks : Byte) (s : State) : Host.Outcome State Fault Refusal :=
  .next (issueResponse s.cfg.params.rspQty1 s.cfg.params.status1Code payload cks s)

/-- RSP_STATUS_2 (R74). -/
def execRspStatus2 (payload : List Byte) (cks : Byte) (s : State) : Host.Outcome State Fault Refusal :=
  .next (issueResponse s.cfg.params.rspQty2 s.cfg.params.status2Code payload cks s)

/-- RSP_STATUS_3 (R74). -/
def execRspStatus3 (payload : List Byte) (cks : Byte) (s : State) : Host.Outcome State Fault Refusal :=
  .next (issueResponse s.cfg.params.rspQty3 s.cfg.params.status3Code payload cks s)

/-- RSP_SET_VALUE_ACK (R75). -/
def execRspSetValueAck (cks : Byte) (s : State) : Host.Outcome State Fault Refusal :=
  .next (issueResponse s.cfg.params.rspQtyAck s.cfg.params.setValueCode [] cks s)

end Sys2Proof.Machine
end

