-- ==== Sys2Proof/Machine/Serializer.lean ====
section
/-! DEFINITION. The commands of the serializer (spec/41_serializer.md R140 to R143). -/

namespace Sys2Proof.Machine

/-- `TX.STATUS c` (R140). -/
def execTxStatus (c : Byte) (s : State) : Host.Outcome State Fault Refusal := .next (serializeStatus c s)

/-- `TX.THR raw` (R141). -/
def execTxThr (raw : Half) (s : State) : Host.Outcome State Fault Refusal := .next (serializeThrottle raw s)

/-- `TX.LEN` (R142): `ok(zext_16(TXLEN))`. -/
def execTxLen (s : State) : Host.Outcome State Fault Refusal :=
  .next (completeWith (s.txlen.setWidth 16) s)

/-- `TX.RD i` (R143): RANGE unless `i < TXLEN`, else the byte. -/
def execTxRd (i : Byte) (s : State) : Host.Outcome State Fault Refusal :=
  if s.txlen.toNat ≤ i.toNat then .next (raiseCause .range s)
  else .next (completeWithRead .tx i.toNat 1 s)

end Sys2Proof.Machine
end

