-- ==== Sys2Proof/Machine/Dispatch.lean ====
section
/-! DEFINITION. The dispatch: one arm per instruction (spec/43_control.md R205). -/

namespace Sys2Proof.Machine

def exec (i : Instr) (s : State) : Host.Outcome State Fault Refusal :=
  match i with
  | .nop => Sys2Proof.Machine.execNop s
  | .csumClr => Sys2Proof.Machine.execCsumClr s
  | .csumAdd b => Sys2Proof.Machine.execCsumAdd b s
  | .csumRd => Sys2Proof.Machine.execCsumRd s
  | .csumGen => Sys2Proof.Machine.execCsumGen s
  | .csumChk c => Sys2Proof.Machine.execCsumChk c s
  | .txStatus c => Sys2Proof.Machine.execTxStatus c s
  | .txThr raw => Sys2Proof.Machine.execTxThr raw s
  | .txLen => Sys2Proof.Machine.execTxLen s
  | .txRd k => Sys2Proof.Machine.execTxRd k s
  | .rxArm c => Sys2Proof.Machine.execRxArm c s
  | .rxByte b => Sys2Proof.Machine.execRxByte b s
  | .rxAbort => Sys2Proof.Machine.execRxAbort s
  | .rxHdr => Sys2Proof.Machine.execRxHdr s
  | .rxRd k => Sys2Proof.Machine.execRxRd k s
  | .rxRd16 off => Sys2Proof.Machine.execRxRd16 off s
  | .rxQty c => Sys2Proof.Machine.execRxQty c s
  | .statRd => Sys2Proof.Machine.execStatRd s
  | .statClr => Sys2Proof.Machine.execStatClr s
  | .reqStatus1 => Sys2Proof.Machine.execReqStatus1 s
  | .reqStatus2 => Sys2Proof.Machine.execReqStatus2 s
  | .reqStatus3 => Sys2Proof.Machine.execReqStatus3 s
  | .reqSetValue raw => Sys2Proof.Machine.execReqSetValue raw s
  | .rspStatus1 payload cks => Sys2Proof.Machine.execRspStatus1 payload cks s
  | .rspStatus2 payload cks => Sys2Proof.Machine.execRspStatus2 payload cks s
  | .rspStatus3 payload cks => Sys2Proof.Machine.execRspStatus3 payload cks s
  | .rspSetValueAck cks => Sys2Proof.Machine.execRspSetValueAck cks s

end Sys2Proof.Machine
end

