-- ==== Sys2Proof/Machine/Port.lean ====
section
/-! DEFINITION. The command port (spec/43_control.md R204): what the host presents, how the block takes it, and what becomes
of an encoding that is no instruction. -/

namespace Sys2Proof.Machine

/-- The next input and the state after taking it; `none` where the host has presented nothing. -/
def takeInput (s : State) : Option (PortEvent × State) :=
  match s.port with
  | [] => none
  | e :: rest => some (e, { s with port := rest })

/-- The host presents an encoded instruction as the very next input. -/
def presentFirst (e : Encoded) (s : State) : State := { s with port := .present e :: s.port }

/-- An encoding that is no instruction: an illegal word executes as R203; a transfer that is no frame of R76 is refused
(log entry 7). -/
def runRejected (why : Reject) (s : State) : Host.Outcome State Fault Refusal :=
  match why with
  | .illegal _ => execIllegal s
  | .notFrame _ => .refused .notAFrame

end Sys2Proof.Machine
end

