-- ==== Sys2Proof/Machine/Step.lean ====
section
/-! DEFINITION. The step: the block takes the host's next input and executes it completely (spec/43_control.md R204, R205). -/

namespace Sys2Proof.Machine

/-- One step. With nothing presented the block keeps its state (spec/60_exceptions.md R236). -/
def step (s : State) : Host.Outcome State Fault Refusal :=
  match takeInput s with
  | none => .next s
  | some (.reset, t) => .next (assertReset t)
  | some (.present e, t) =>
    match decode t.cfg.params e with
    | .ok i => exec i t
    | .error why => runRejected why t

/-- The state in which the host presents next the instruction that the opcode table's bits `w` of an `nbits`-bit row
stand for (log entry 3). -/
def State.withFetchWord (s : State) (nbits w : Nat) : State := presentFirst (tableEncoded s.cfg.params nbits w) s

end Sys2Proof.Machine
end

