-- ==== Sys2Proof/Machine/Run.lean ====
section
/-! DEFINITION. Runs of command words and what the host observes of them (spec/00_scope.md R13, spec/43_control.md R204),
and the host's cycle (spec/70_reset_and_hazards.md R262). -/

namespace Sys2Proof.Machine

/-- The host presents one command word and the block executes it completely (R204). -/
def presentWord (w : CmdWord) (s : State) : Host.Outcome State Fault Refusal := step (presentFirst (.word w) s)

/-- A finite sequence of command words applied in order (R13). -/
def runWords : List CmdWord → State → Host.Outcome State Fault Refusal
  | [], s => .next s
  | w :: ws, s =>
    match presentWord w s with
    | .next t => runWords ws t
    | .fault f => .fault f
    | .refused r => .refused r

/-- The observation of a run: the value of `RES` after each command (R13). -/
def observe : List CmdWord → State → List Half
  | [], _ => []
  | w :: ws, s =>
    match presentWord w s with
    | .next t => t.res :: observe ws t
    | .fault _ | .refused _ => []

/-- So many steps, each taking the host's next input. -/
def stepTimes : Nat → State → Host.Outcome State Fault Refusal
  | 0, s => .next s
  | n + 1, s =>
    match step s with
    | .next t => stepTimes n t
    | .fault f => .fault f
    | .refused r => .refused r

/-- Sending a status request (R262): build the frame, read its bytes for the transport, arm for the response. -/
def sendStatus (c : Byte) : List Instr := .txStatus c :: expandPseudo (.txDump 3) ++ [.rxArm c]

/-- Sending the throttle command (R262). -/
def sendThrottle (p : Params) (raw : Half) : List Instr :=
  .txThr raw :: expandPseudo (.txDump 23) ++ [.rxArm p.setValueCode]

end Sys2Proof.Machine
end

