-- ==== Sys2Proof/Safety.lean ====
section
/-! DEFINITION. What holds between any two commands (spec/10_state.md R32), what a held verdict says, and which commands may
do what (spec/10_state.md R33, spec/20_memory.md R56, spec/60_exceptions.md R221). -/

namespace Sys2Proof.Machine

/-- The invariants of R32, with what R25, R31 and the buffers' own form add to make them hold step by step. -/
structure Inv (s : State) : Prop where
  /-- R32(a). -/
  idleEmpty : s.status.rxst = .idle → s.rxcnt = 0#8
  /-- R32(b). -/
  armedShort : s.status.rxst = .armed → s.rxcnt.toNat < s.rxexpqty.toNat
  /-- R32(c). -/
  doneFull : s.status.rxst = .doneOk ∨ s.status.rxst = .doneErr → s.rxcnt = s.rxexpqty
  /-- R32(d). -/
  sumKept : s.rxacc = sum8 (s.rxbuf.bytes 0 s.rxcnt.toNat)
  /-- R32(e). -/
  rxTailZero : ∀ k, s.rxcnt.toNat ≤ k → s.rxbuf.read k = 0x00#8
  /-- R32(f), first half. -/
  txLengths : s.txlen = 0#5 ∨ s.txlen = 3#5 ∨ s.txlen = 23#5
  /-- R32(f), second half. -/
  txTailZero : ∀ k, s.txlen.toNat ≤ k → s.txbuf.read k = 0x00#8
  /-- R32(g). -/
  okIff : s.status.rxst = .doneOk ↔ s.rxcnt = s.rxexpqty ∧ s.status.rxerr = .none ∧ s.status.rxst ≠ .idle
  /-- R32(h): the reserved bits read 0. -/
  reservedZero : s.status.toWord.extractLsb' 12 4 = 0#4
  /-- R32(h): the causes a command can leave. -/
  cmdCauses : s.status.cmderr ∈ [Cause.none, .illegalCommand, .badCode, .busy, .notReady, .range]
  /-- R32(h): the causes a frame can leave. -/
  frameCauses : s.status.rxerr ∈ [Cause.none, .checksumMismatch, .responseTimeout, .unexpectedCode, .quantityMismatch]
  /-- R25: outside IDLE the expected length is that of the armed code. -/
  expected : s.status.rxst ≠ .idle → rspQty s.cfg.params s.rxexpcode = some s.rxexpqty
  /-- R31: no frame cause while ARMED. -/
  armedClean : s.status.rxst = .armed → s.status.rxerr = .none
  /-- The buffers keep their canonical form and list no offset they do not have. -/
  rxForm : s.rxbuf.wf = true ∧ s.rxbuf.within s.cfg.params.rxBufBytes = true
  txForm : s.txbuf.wf = true ∧ s.txbuf.within s.cfg.params.txBufBytes = true

/-- The frame that is held: the first `RXEXPQTY` bytes of `RXBUF` (R169). -/
def heldFrame (s : State) : List Byte := s.rxbuf.bytes 0 s.rxexpqty.toNat

/-- A held verdict is the verdict of `deframe` on the held frame (R169). -/
structure HeldVerdict (s : State) : Prop where
  accepted : s.status.rxst = .doneOk →
    deframe s.cfg.params s.rxexpcode (heldFrame s) = some (.ok (payloadOf s.rxexpqty (heldFrame s)))
  rejected : s.status.rxst = .doneErr →
    deframe s.cfg.params s.rxexpcode (heldFrame s) = some (.error s.status.rxerr)

/-- A whole response frame. -/
def isResponse : Instr → Bool
  | .rspStatus1 _ _ | .rspStatus2 _ _ | .rspStatus3 _ _ | .rspSetValueAck _ => true
  | .nop | .csumClr | .csumAdd _ | .csumRd | .csumGen | .csumChk _ | .txStatus _ | .txThr _ | .txLen | .txRd _
  | .rxArm _ | .rxByte _ | .rxAbort | .rxHdr | .rxRd _ | .rxRd16 _ | .rxQty _ | .statRd | .statClr
  | .reqStatus1 | .reqStatus2 | .reqStatus3 | .reqSetValue _ => false

/-- A whole frame: no command, but what the host issues commands for (R14, R76). -/
def isFrame : Instr → Bool
  | .reqStatus1 | .reqStatus2 | .reqStatus3 | .reqSetValue _
  | .rspStatus1 _ _ | .rspStatus2 _ _ | .rspStatus3 _ _ | .rspSetValueAck _ => true
  | .nop | .csumClr | .csumAdd _ | .csumRd | .csumGen | .csumChk _ | .txStatus _ | .txThr _ | .txLen | .txRd _
  | .rxArm _ | .rxByte _ | .rxAbort | .rxHdr | .rxRd _ | .rxRd16 _ | .rxQty _ | .statRd | .statClr => false

/-- The commands that write `ACC` (R22, R33). -/
def writesAcc : Instr → Bool
  | .csumClr | .csumAdd _ => true
  | .nop | .csumRd | .csumGen | .csumChk _ | .txStatus _ | .txThr _ | .txLen | .txRd _
  | .rxArm _ | .rxByte _ | .rxAbort | .rxHdr | .rxRd _ | .rxRd16 _ | .rxQty _ | .statRd | .statClr
  | .reqStatus1 | .reqStatus2 | .reqStatus3 | .reqSetValue _
  | .rspStatus1 _ _ | .rspStatus2 _ _ | .rspStatus3 _ _ | .rspSetValueAck _ => false

/-- The commands of the checksum unit: the only ones that read or write `ACC` (R22, R33). -/
def usesAcc : Instr → Bool
  | .csumClr | .csumAdd _ | .csumRd | .csumGen | .csumChk _ => true
  | .nop | .txStatus _ | .txThr _ | .txLen | .txRd _
  | .rxArm _ | .rxByte _ | .rxAbort | .rxHdr | .rxRd _ | .rxRd16 _ | .rxQty _ | .statRd | .statClr
  | .reqStatus1 | .reqStatus2 | .reqStatus3 | .reqSetValue _
  | .rspStatus1 _ _ | .rspStatus2 _ _ | .rspStatus3 _ _ | .rspSetValueAck _ => false

/-- The serialize commands, which write `TXBUF` and `TXLEN` (R24, R33). -/
def writesTx : Instr → Bool
  | .txStatus _ | .txThr _ => true
  | .nop | .csumClr | .csumAdd _ | .csumRd | .csumGen | .csumChk _ | .txLen | .txRd _
  | .rxArm _ | .rxByte _ | .rxAbort | .rxHdr | .rxRd _ | .rxRd16 _ | .rxQty _ | .statRd | .statClr
  | .reqStatus1 | .reqStatus2 | .reqStatus3 | .reqSetValue _
  | .rspStatus1 _ _ | .rspStatus2 _ _ | .rspStatus3 _ _ | .rspSetValueAck _ => false

/-- The three commands that write `RXCNT`, `RXACC`, `RXBUF`, `RXST` and `RXERR` (R25, R33). -/
def writesRx : Instr → Bool
  | .rxArm _ | .rxByte _ | .rxAbort => true
  | .nop | .csumClr | .csumAdd _ | .csumRd | .csumGen | .csumChk _ | .txStatus _ | .txThr _ | .txLen | .txRd _
  | .rxHdr | .rxRd _ | .rxRd16 _ | .rxQty _ | .statRd | .statClr
  | .reqStatus1 | .reqStatus2 | .reqStatus3 | .reqSetValue _
  | .rspStatus1 _ _ | .rspStatus2 _ _ | .rspStatus3 _ _ | .rspSetValueAck _ => false

/-- `RX.ARM`, the only command that writes `RXEXPCODE` and `RXEXPQTY` (R25, R33). -/
def writesExpected : Instr → Bool
  | .rxArm _ => true
  | .nop | .csumClr | .csumAdd _ | .csumRd | .csumGen | .csumChk _ | .txStatus _ | .txThr _ | .txLen | .txRd _
  | .rxByte _ | .rxAbort | .rxHdr | .rxRd _ | .rxRd16 _ | .rxQty _ | .statRd | .statClr
  | .reqStatus1 | .reqStatus2 | .reqStatus3 | .reqSetValue _
  | .rspStatus1 _ _ | .rspStatus2 _ _ | .rspStatus3 _ _ | .rspSetValueAck _ => false

/-- The commands that write `STRAY` (R28, R33). -/
def writesStray : Instr → Bool
  | .rxByte _ | .statClr => true
  | .nop | .csumClr | .csumAdd _ | .csumRd | .csumGen | .csumChk _ | .txStatus _ | .txThr _ | .txLen | .txRd _
  | .rxArm _ | .rxAbort | .rxHdr | .rxRd _ | .rxRd16 _ | .rxQty _ | .statRd
  | .reqStatus1 | .reqStatus2 | .reqStatus3 | .reqSetValue _
  | .rspStatus1 _ _ | .rspStatus2 _ _ | .rspStatus3 _ _ | .rspSetValueAck _ => false

/-- The commands that write `ERRSEEN` although they succeed (R29, R33): the byte that ends a rejected frame, the abort and
the clear; every other command writes it only on failure. -/
def writesErrSeen : Instr → Bool
  | .rxByte _ | .rxAbort | .statClr => true
  | .nop | .csumClr | .csumAdd _ | .csumRd | .csumGen | .csumChk _ | .txStatus _ | .txThr _ | .txLen | .txRd _
  | .rxArm _ | .rxHdr | .rxRd _ | .rxRd16 _ | .rxQty _ | .statRd
  | .reqStatus1 | .reqStatus2 | .reqStatus3 | .reqSetValue _
  | .rspStatus1 _ _ | .rspStatus2 _ _ | .rspStatus3 _ _ | .rspSetValueAck _ => false

/-- What does not write `CMDERR`: the commands `NOP` and `STAT.RD` (R30), and a whole frame, which is no command. -/
def keepsCmdErr : Instr → Bool
  | .nop | .statRd
  | .reqStatus1 | .reqStatus2 | .reqStatus3 | .reqSetValue _
  | .rspStatus1 _ _ | .rspStatus2 _ _ | .rspStatus3 _ _ | .rspSetValueAck _ => true
  | .csumClr | .csumAdd _ | .csumRd | .csumGen | .csumChk _ | .txStatus _ | .txThr _ | .txLen | .txRd _
  | .rxArm _ | .rxByte _ | .rxAbort | .rxHdr | .rxRd _ | .rxRd16 _ | .rxQty _ | .statClr => false

/-- The reads of R56. -/
def isRead : Instr → Bool
  | .txRd _ | .txLen | .rxHdr | .rxRd _ | .rxRd16 _ | .rxQty _ | .csumRd | .csumGen | .csumChk _ | .statRd => true
  | .nop | .csumClr | .csumAdd _ | .txStatus _ | .txThr _ | .rxArm _ | .rxByte _ | .rxAbort | .statClr
  | .reqStatus1 | .reqStatus2 | .reqStatus3 | .reqSetValue _
  | .rspStatus1 _ _ | .rspStatus2 _ _ | .rspStatus3 _ _ | .rspSetValueAck _ => false

/-- The causes a command can fail with, in the order they are tested (R221); a whole frame is no command and has none. -/
def possibleCauses : Instr → List Cause
  | .nop | .csumClr | .csumAdd _ | .csumRd | .csumGen | .csumChk _ | .txLen | .rxByte _ | .rxAbort | .statRd | .statClr => []
  | .txStatus _ => [.badCode]
  | .txThr _ => [.range]
  | .txRd _ => [.range]
  | .rxArm _ => [.badCode, .busy]
  | .rxHdr => [.notReady]
  | .rxRd _ | .rxRd16 _ => [.notReady, .range]
  | .rxQty _ => [.badCode]
  | .reqStatus1 | .reqStatus2 | .reqStatus3 | .reqSetValue _ => []
  | .rspStatus1 _ _ | .rspStatus2 _ _ | .rspStatus3 _ _ | .rspSetValueAck _ => []

end Sys2Proof.Machine
end

