-- ==== Sys2Proof/Certificates/Slice0/Obligations.lean ====
section
/-! DEFINITION. The statements for the provers. Each docstring names the rules of spec/ it formalises, or the log entry of
the model's choice it rests on. -/

open Sys2Proof Sys2Proof.Machine

/-! ### The checksum and the codec functions -/

/-- R100 and R106: `sum8` is the sum of the unsigned bytes modulo 256, can be run one byte at a time from either end of the
sequence, and does not depend on the order of the bytes. -/
def Obligations.Sum8IsSumModulo256 : Prop :=
  sum8 [] = 0x00#8 ∧
  (∀ bs : List Byte, (sum8 bs).toNat = (bs.map BitVec.toNat).sum % 256) ∧
  (∀ (bs : List Byte) (b : Byte), (sum8 (bs ++ [b])).toNat = ((sum8 bs).toNat + b.toNat) % 256) ∧
  (∀ bs : List Byte, bs.foldl (fun a b => a + b) 0x00#8 = sum8 bs) ∧
  (∀ bs cs : List Byte, bs.Perm cs → sum8 bs = sum8 cs)

/-- R101 and R102: the checksum byte is `(0x100 − sum8) mod 0x100`, it is the one byte that completes the sum to 0, and the
whole-frame test is the source's comparison with `0x100 − last byte`. -/
def Obligations.CkCompletesTheSum : Prop :=
  (∀ bs : List Byte, (ck bs).toNat = (0x100 - (sum8 bs).toNat) % 0x100) ∧
  (∀ (bs : List Byte) (c : Byte), ((sum8 bs).toNat + c.toNat) % 256 = 0 ↔ c = ck bs) ∧
  (∀ (bs : List Byte) (last : Byte),
    frameSumOk (bs ++ [last]) = true ↔ (sum8 bs).toNat = (0x100 - last.toNat) % 0x100)

/-- R103: `validate_response` is Ok exactly when quantity, code, payload and checksum sum to 0 modulo 256. -/
def Obligations.ValidateResponseIsTheSumTest : Prop :=
  ∀ (quantity code : Byte) (payload : List Byte) (received : Byte),
    validateResponse quantity code payload received = true ↔
      (quantity.toNat + code.toNat + (payload.map BitVec.toNat).sum + received.toNat) % 256 = 0

/-- R104: appending the checksum makes the sum 0, so every frame that an encode function returns passes the whole-frame test
and `validate_response` is Ok on its parts. -/
def Obligations.ChecksumRoundTrip : Prop :=
  (∀ bs : List Byte, sum8 (bs ++ [ck bs]) = 0x00#8) ∧
  (∀ (cfg : Config) (f : List Byte),
    ((∃ c, encodeStatusRequest cfg.params c = some f) ∨ (∃ raw, encodeThrottleCommand cfg.params raw = some f)) →
      frameSumOk f = true ∧
      ∃ quantity code payload received, f = [quantity, code] ++ payload ++ [received] ∧
        validateResponse quantity code payload received = true)

/-- R105: one byte replaced by another value changes the sum, so a frame that passed fails. What escapes is said as well: of
changes that keep the length of a passing frame, exactly those whose differences sum to 0 (so two changes and more may); and
any reordering, and bytes 0x00 put in or taken out. -/
def Obligations.SingleByteChangeIsDetected : Prop :=
  (∀ (pre post : List Byte) (b b' : Byte), b ≠ b' →
    sum8 (pre ++ b :: post) ≠ sum8 (pre ++ b' :: post) ∧
    (frameSumOk (pre ++ b :: post) = true → frameSumOk (pre ++ b' :: post) = false)) ∧
  (∀ f changes : List Byte, changes.length = f.length → sum8 changes = 0x00#8 →
    frameSumOk (List.zipWith (fun b d => b + d) f changes) = frameSumOk f) ∧
  (∀ f g : List Byte, f.length = g.length → frameSumOk f = true →
    (frameSumOk g = true ↔ sum8 (List.zipWith (fun b c => c - b) f g) = 0x00#8)) ∧
  (∀ f g : List Byte, f.Perm g → frameSumOk f = frameSumOk g) ∧
  (∀ (pre post : List Byte) (n : Nat), frameSumOk (pre ++ zeros n ++ post) = frameSumOk (pre ++ post))

/-- R132(b) to (e): encoded frames pass the checksum; a status request has checksum 0x00 only for code 0xFD; with the
document's factor and codes no throttle command has; and the quantity byte of each is its length, 3 or 23. -/
def Obligations.EncodedFrameProperties : Prop :=
  (∀ (cfg : Config) (c : Byte) (f : List Byte), encodeStatusRequest cfg.params c = some f →
    frameSumOk f = true ∧ f.length = 3 ∧ f.head? = some 3#8 ∧ (f.getLast? = some 0x00#8 ↔ c = 0xFD#8)) ∧
  (∀ (cfg : Config) (raw : Half) (f : List Byte), encodeThrottleCommand cfg.params raw = some f →
    frameSumOk f = true ∧ f.length = 23 ∧ f.head? = some 23#8) ∧
  (∀ (c : OpenCodes) (raw : Half) (f : List Byte),
    encodeThrottleCommand (Params.document c.status2 c.status3) raw = some f → f.getLast? ≠ some 0x00#8)

/-- R162: on its domain, a code of the table and a byte sequence of that code's response length, `deframe` answers the payload
exactly when sum, quantity and code are right, and otherwise the first failing test in the order checksum, quantity, code. The
checksum test is `validate_response` on the frame's parts. -/
def Obligations.DeframeAcceptsExactly : Prop :=
  ∀ (cfg : Config) (c q : Byte) (f : List Byte), rspQty cfg.params c = some q → f.length = q.toNat →
    deframe cfg.params c f = some
      (if (f.map BitVec.toNat).sum % 256 ≠ 0 then .error .checksumMismatch
      else if f[0]? ≠ some q then .error .quantityMismatch
      else if f[1]? ≠ some c then .error .unexpectedCode
      else .ok ((f.drop 2).take (q.toNat - 3))) ∧
    (∀ quantity code payload received, f = [quantity, code] ++ payload ++ [received] →
      (validateResponse quantity code payload received = true ↔ (f.map BitVec.toNat).sum % 256 = 0))

/-! ### The configuration -/

/-- R7: parameters make a configuration exactly when they satisfy (a) to (d); others are refused. -/
def Obligations.ConfigurationConstraints : Prop :=
  ∀ p : Params, (Config.configure p).isSome = true ↔
    ([p.status1Code, p.status2Code, p.status3Code, p.setValueCode].Pairwise (· ≠ ·)) ∧
    (∀ q ∈ [p.rspQty1, p.rspQty2, p.rspQty3, p.rspQtyAck], 3 ≤ q.toNat ∧ q.toNat ≤ p.rxBufBytes) ∧
    p.reqQty = 3#8 ∧ p.thrQty = 23#8 ∧ 1 ≤ p.thrFactor

/-- R6 and R8: the values of the document, the sizes derived from them, and of the two OPEN codes only that all four codes
are pairwise distinct. -/
def Obligations.DocumentParameters : Prop :=
  let p := State.reset.cfg.params
  p.status1Code = 0x04#8 ∧ p.setValueCode = 0xC9#8 ∧ p.reqQty = 0x03#8 ∧ p.thrQty = 0x17#8 ∧
  p.rspQty1 = 0x57#8 ∧ p.rspQty2 = 0x65#8 ∧ p.rspQty3 = 0x67#8 ∧ p.rspQtyAck = 0x03#8 ∧ p.thrFactor = 10 ∧
  p.txBufBytes = 23 ∧ p.rxBufBytes = 103 ∧
  plen p p.status1Code = some 84 ∧ plen p p.status2Code = some 98 ∧ plen p p.status3Code = some 100 ∧
  plen p p.setValueCode = some 0 ∧
  [p.status1Code, p.status2Code, p.status3Code, p.setValueCode].Pairwise (· ≠ ·)

/-! ### Encoding -/

/-- R72 to R76 and R82 to R84: for every configuration and every well-formed instruction, decoding its encoding gives it back.
That a frame is presented with its direction and decoded strictly is the model's choice (log entry 6). -/
def Obligations.DecodeOfEncode : Prop :=
  ∀ (cfg : Config) (i : Instr), WellFormed cfg.params i = true → decode cfg.params (encode cfg.params i) = .ok i

/-- The other direction: an encoding that decodes is the encoding of what it decodes to, and that is well
formed (frames: log entry 6). -/
def Obligations.EncodeOfDecode : Prop :=
  ∀ (cfg : Config) (e : Encoded) (i : Instr), decode cfg.params e = .ok i →
    encode cfg.params i = e ∧ WellFormed cfg.params i = true

/-- R83 and R84: a word is illegal exactly when its opcode is reserved or it sets an operand bit its class forbids. -/
def Obligations.IllegalWordsAreTheReservedOnes : Prop :=
  ∀ w : CmdWord,
    let op := w.toNat / 65536
    let arg := w.toNat % 65536
    (∃ why, decodeWord w = .error why) ↔
      ((0x06 ≤ op ∧ op ≤ 0x0F) ∨ (0x14 ≤ op ∧ op ≤ 0x1F) ∨ (0x27 ≤ op ∧ op ≤ 0x2F) ∨ (0x32 ≤ op ∧ op ≤ 0xFF)) ∨
      (op ∈ [0x00, 0x01, 0x03, 0x04, 0x12, 0x22, 0x23, 0x30, 0x31] ∧ arg ≠ 0) ∨
      (op ∈ [0x02, 0x05, 0x10, 0x13, 0x20, 0x21, 0x24, 0x25, 0x26] ∧ arg / 256 ≠ 0)

/-- R87: the spec's examples of words, decoded. -/
def Obligations.SampleWordsDecode : Prop :=
  decodeWord 0x100004#24 = .ok (.txStatus 0x04#8) ∧ decodeWord 0x110032#24 = .ok (.txThr 50#16) ∧
  decodeWord 0x2000C9#24 = .ok (.rxArm 0xC9#8) ∧ decodeWord 0x210003#24 = .ok (.rxByte 0x03#8) ∧
  decodeWord 0x300000#24 = .ok .statRd ∧ decodeWord 0x020017#24 = .ok (.csumAdd 0x17#8) ∧
  decodeWord 0x010001#24 = .error (.operandBits 0x01#8 0x0001#16) ∧
  decodeWord 0x020100#24 = .error (.operandBits 0x02#8 0x0100#16) ∧
  decodeWord 0x060000#24 = .error (.reservedOpcode 0x06#8) ∧ decodeWord 0xFFFFFF#24 = .error (.reservedOpcode 0xFF#8)

/-! ### The step, the port and reset -/

/-- R204 and R205, read over the model's port: when the host's next input decodes to an instruction, the step takes the input
from the port and is `exec` of that instruction, and nothing else. R205 speaks of one 24-bit word per step: the queue of inputs
is the model's choice (log entry 3), and so is a whole frame as one input (log entries 4, 5 and 6). -/
def Obligations.StepRunsDecodedInstruction : Prop :=
  ∀ (s : State) (e : Encoded) (rest : List PortEvent) (i : Instr),
    s.port = .present e :: rest → decode s.cfg.params e = .ok i → step s = exec i { s with port := rest }

/-- R203: an illegal word clears `RES`, records ILLEGAL_COMMAND, sets `ERRSEEN`, and changes nothing else. -/
def Obligations.IllegalWordRaises : Prop :=
  ∀ (s : State) (w : CmdWord) (rest : List PortEvent) (why : Illegal),
    s.port = .present (.word w) :: rest → decodeWord w = .error why →
    step s = .next { s with
      port := rest, res := 0x0000#16, status := { s.status with cmderr := .illegalCommand, errseen := true } }

/-- R250 (reset values R34): the reset event gives every piece of the block's state its reset value, in one step. -/
def Obligations.ResetEventSetsResetValues : Prop :=
  ∀ (s : State) (rest : List PortEvent), s.port = .reset :: rest →
    ∃ t, step s = .next t ∧ t.acc = 0x00#8 ∧ t.res = 0x0000#16 ∧ t.txlen = 0#5 ∧ t.rxexpcode = 0x00#8 ∧
      t.rxexpqty = 0x00#8 ∧ t.rxcnt = 0#8 ∧ t.rxacc = 0x00#8 ∧ t.status.toWord = 0x0000#16 ∧ t.status.rxst = .idle ∧
      (∀ k, t.txbuf.read k = 0x00#8) ∧ (∀ k, t.rxbuf.read k = 0x00#8)

/-- The reset event keeps the parameters (R253) and the inputs still to come: the latter is the model's choice (log entry 12). -/
def Obligations.ResetEventKeepsParametersAndInputs : Prop :=
  ∀ (s : State) (rest : List PortEvent), s.port = .reset :: rest →
    ∃ t, step s = .next t ∧ t.cfg = s.cfg ∧ t.port = rest

/-- R34: the reset state. -/
def Obligations.ResetStateValues : Prop :=
  State.reset.acc = 0x00#8 ∧ State.reset.res = 0x0000#16 ∧ (∀ k, State.reset.txbuf.read k = 0x00#8) ∧
  State.reset.txlen = 0#5 ∧ State.reset.rxexpcode = 0x00#8 ∧ State.reset.rxexpqty = 0x00#8 ∧ State.reset.rxcnt = 0#8 ∧
  State.reset.rxacc = 0x00#8 ∧ (∀ k, State.reset.rxbuf.read k = 0x00#8) ∧
  State.reset.status = ⟨.idle, false, false, .none, .none⟩ ∧ State.reset.status.toWord = 0x0000#16

/-- R251: right after reset every `TX.RD` fails with RANGE, `RX.BYTE` is stray, and `RX.HDR`, `RX.RD` and `RX.RD16` fail with
NOT_READY, under every configuration. -/
def Obligations.AfterResetNothingIsHeld : Prop :=
  ∀ (cfg : Config) (port : List PortEvent) (b : Byte),
    let s := State.resetWith cfg port
    exec (.txRd b) s = .next { s with status := { s.status with cmderr := .range, errseen := true } } ∧
    exec (.rxByte b) s = .next { s with status := { s.status with stray := true } } ∧
    exec .rxHdr s = .next { s with status := { s.status with cmderr := .notReady, errseen := true } } ∧
    exec (.rxRd b) s = .next { s with status := { s.status with cmderr := .notReady, errseen := true } } ∧
    exec (.rxRd16 b) s = .next { s with status := { s.status with cmderr := .notReady, errseen := true } }

/-! ### Control commands -/

/-- R200: `NOP` changes nothing, and the all-zero word is `NOP`. -/
def Obligations.NopChangesNothing : Prop :=
  decodeWord 0x000000#24 = .ok .nop ∧ ∀ s : State, exec .nop s = .next s

/-- R201: `STAT.RD` copies the status word (R26: reserved bits 0, `RXERR`, `CMDERR`, `ERRSEEN`, `STRAY`, `RXST`) into `RES`
and changes nothing else. -/
def Obligations.StatRdReadsStatus : Prop :=
  decodeWord 0x300000#24 = .ok .statRd ∧
  ∀ s : State, ∃ v : Half, exec .statRd s = .next { s with res := v } ∧
    v.extractLsb' 12 4 = 0#4 ∧ v.extractLsb' 8 4 = s.status.rxerr.code ∧ v.extractLsb' 4 4 = s.status.cmderr.code ∧
    v.getLsbD 3 = s.status.errseen ∧ v.getLsbD 2 = s.status.stray ∧ v.extractLsb' 0 2 = s.status.rxst.code

/-- R202: `STAT.CLR` clears the two sticky flags and completes; `RXST` and `RXERR` stay. -/
def Obligations.StatClrClearsSticky : Prop :=
  decodeWord 0x310000#24 = .ok .statClr ∧
  ∀ s : State, exec .statClr s = .next { s with
    res := 0x0000#16, status := { s.status with stray := false, errseen := false, cmderr := .none } }

/-! ### The checksum unit -/

/-- R110: `CSUM.CLR`. -/
def Obligations.CsumClrClearsAccumulator : Prop :=
  decodeWord 0x010000#24 = .ok .csumClr ∧
  ∀ s : State, exec .csumClr s = .next { s with
    acc := 0x00#8, res := 0x0000#16, status := { s.status with cmderr := .none } }

/-- R111: `CSUM.ADD b` adds modulo 256; everything but `ACC`, `RES` and `CMDERR` stays. -/
def Obligations.CsumAddAddsModulo256 : Prop :=
  ∀ (b : Byte) (s : State),
    decodeWord (BitVec.ofNat 24 (0x020000 + b.toNat)) = .ok (.csumAdd b) ∧
    exec (.csumAdd b) s = .next { s with
      acc := BitVec.ofNat 8 ((s.acc.toNat + b.toNat) % 256), res := 0x0000#16,
      status := { s.status with cmderr := .none } }

/-- R112: `CSUM.RD` gives `ACC` zero-extended. -/
def Obligations.CsumRdReadsAccumulator : Prop :=
  decodeWord 0x030000#24 = .ok .csumRd ∧
  ∀ s : State, exec .csumRd s = .next { s with
    res := BitVec.ofNat 16 s.acc.toNat, status := { s.status with cmderr := .none } }

/-- R113: `CSUM.GEN` gives the byte that completes `ACC` to 0, 0x0000 and not 0x0100 for `ACC` = 0. -/
def Obligations.CsumGenGivesChecksum : Prop :=
  decodeWord 0x040000#24 = .ok .csumGen ∧
  ∀ s : State, ∃ v : Half, exec .csumGen s = .next { s with res := v, status := { s.status with cmderr := .none } } ∧
    v.toNat < 256 ∧ (s.acc.toNat + v.toNat) % 256 = 0

/-- R114: `CSUM.CHK c` answers 1 exactly when `ACC + c` is 0 modulo 256; a mismatch is no failure. -/
def Obligations.CsumChkTestsChecksum : Prop :=
  ∀ (c : Byte) (s : State),
    decodeWord (BitVec.ofNat 24 (0x050000 + c.toNat)) = .ok (.csumChk c) ∧
    exec (.csumChk c) s = .next { s with
      res := if (s.acc.toNat + c.toNat) % 256 = 0 then 0x0001#16 else 0x0000#16,
      status := { s.status with cmderr := .none } }

/-- R106, R113, R114 with `CSUM.OVER` of R86: after any bytes are summed, `ACC` is `sum8` of them, `CSUM.GEN` gives `ck` of
them and `CSUM.CHK c` answers 1 exactly when `c` is that byte. -/
def Obligations.RunningChecksumIsCk : Prop :=
  ∀ (s : State) (bs : List Byte) (c : Byte),
    ∃ t u v, runWords (wordsOf s.cfg.params (expandPseudo (.csumOver bs))) s = .next t ∧
      t = { s with acc := sum8 bs, res := 0x0000#16, status := { s.status with cmderr := .none } } ∧
      exec .csumGen t = .next u ∧ u.res = (ck bs).setWidth 16 ∧
      exec (.csumChk c) t = .next v ∧ (v.res = 0x0001#16 ↔ c = ck bs)

/-! ### The serializer -/

/-- R140: `TX.STATUS c` builds `03 c (0xFD − c)` with zeros behind it for a status code, and fails with BAD_CODE for every
other code, with `TXBUF` and `TXLEN` unchanged. -/
def Obligations.TxStatusBuildsRequest : Prop :=
  ∀ (c : Byte) (s : State),
    decodeWord (BitVec.ofNat 24 (0x100000 + c.toNat)) = .ok (.txStatus c) ∧
    (c ∈ [s.cfg.params.status1Code, s.cfg.params.status2Code, s.cfg.params.status3Code] →
      ∃ t, exec (.txStatus c) s = .next t ∧
        t = { s with txbuf := t.txbuf, txlen := 3#5, res := 0x0000#16, status := { s.status with cmderr := .none } } ∧
        ∀ k, t.txbuf.read k = [0x03#8, c, 0xFD#8 - c].getD k 0x00#8) ∧
    (c ∉ [s.cfg.params.status1Code, s.cfg.params.status2Code, s.cfg.params.status3Code] →
      exec (.txStatus c) s = .next { s with
        res := 0x0000#16, status := { s.status with cmderr := .badCode, errseen := true } })

/-- R141 (frame R73): `TX.THR raw` builds the 23 bytes of the scaled throttle, low byte first, 18 zeros and the checksum, or
fails with RANGE when the scaled value does not fit 16 bits, with `TXBUF` and `TXLEN` unchanged. -/
def Obligations.TxThrBuildsThrottleCommand : Prop :=
  ∀ (raw : Half) (s : State),
    let scaled := raw.toNat * s.cfg.params.thrFactor
    let code := s.cfg.params.setValueCode
    decodeWord (BitVec.ofNat 24 (0x110000 + raw.toNat)) = .ok (.txThr raw) ∧
    (scaled ≤ 0xFFFF →
      ∃ t, exec (.txThr raw) s = .next t ∧
        t = { s with txbuf := t.txbuf, txlen := 23#5, res := 0x0000#16, status := { s.status with cmderr := .none } } ∧
        (∀ k, k ≠ 22 → t.txbuf.read k =
          [0x17#8, code, BitVec.ofNat 8 (scaled % 256), BitVec.ofNat 8 (scaled / 256)].getD k 0x00#8) ∧
        t.txbuf.read 22 = BitVec.ofNat 8 (0x100 - (0x17 + code.toNat + scaled % 256 + scaled / 256) % 256)) ∧
    (0xFFFF < scaled →
      exec (.txThr raw) s = .next { s with
        res := 0x0000#16, status := { s.status with cmderr := .range, errseen := true } })

/-- R142: `TX.LEN` gives `TXLEN` zero-extended. -/
def Obligations.TxLenReadsLength : Prop :=
  decodeWord 0x120000#24 = .ok .txLen ∧
  ∀ s : State, exec .txLen s = .next { s with
    res := BitVec.ofNat 16 s.txlen.toNat, status := { s.status with cmderr := .none } }

/-- R143: `TX.RD i` gives frame byte `i` below `TXLEN` (a length that `TXBUF` holds: R32(f)), and fails with RANGE at and
above it. -/
def Obligations.TxRdReadsFrameByte : Prop :=
  ∀ (i : Byte) (s : State),
    decodeWord (BitVec.ofNat 24 (0x130000 + i.toNat)) = .ok (.txRd i) ∧
    (i.toNat < s.txlen.toNat → s.txlen.toNat ≤ 23 →
      exec (.txRd i) s = .next { s with
        res := (s.txbuf.read i.toNat).setWidth 16, status := { s.status with cmderr := .none } }) ∧
    (s.txlen.toNat ≤ i.toNat →
      exec (.txRd i) s = .next { s with
        res := 0x0000#16, status := { s.status with cmderr := .range, errseen := true } })

/-- R262 with R140, R141, R143: what the host observes when it builds a frame and dumps it with `TX.RD` is `RES` = 0 and then
the frame's bytes in wire order. -/
def Obligations.SerializedFrameIsReadBack : Prop :=
  (∀ (s : State) (c : Byte) (f : List Byte), encodeStatusRequest s.cfg.params c = some f →
    observe (wordsOf s.cfg.params (.txStatus c :: expandPseudo (.txDump 3))) s =
      0x0000#16 :: f.map (BitVec.setWidth 16)) ∧
  (∀ (s : State) (raw : Half) (f : List Byte), encodeThrottleCommand s.cfg.params raw = some f →
    observe (wordsOf s.cfg.params (.txThr raw :: expandPseudo (.txDump 23))) s =
      0x0000#16 :: f.map (BitVec.setWidth 16))

/-! ### The deserializer -/

/-- R168 (lengths R160): `RX.ARM c` arms for each of the four codes and returns the response length; a code outside `CODES`
fails with BAD_CODE, whether armed or not; a code of `CODES` while ARMED fails with BUSY. -/
def Obligations.RxArmArms : Prop :=
  ∀ (c : Byte) (s : State),
    let p := s.cfg.params
    let table := [(p.status1Code, p.rspQty1), (p.status2Code, p.rspQty2), (p.status3Code, p.rspQty3),
      (p.setValueCode, p.rspQtyAck)]
    decodeWord (BitVec.ofNat 24 (0x200000 + c.toNat)) = .ok (.rxArm c) ∧
    (∀ q, (c, q) ∈ table → s.status.rxst ≠ .armed →
      ∃ t, exec (.rxArm c) s = .next t ∧
        t = { s with
          rxexpcode := c, rxexpqty := q, rxcnt := 0#8, rxacc := 0x00#8, rxbuf := t.rxbuf, res := q.setWidth 16
          status := { s.status with rxst := .armed, rxerr := .none, cmderr := .none } } ∧
        ∀ k, t.rxbuf.read k = 0x00#8) ∧
    (c ∈ table.map Prod.fst → s.status.rxst = .armed →
      exec (.rxArm c) s = .next { s with
        res := 0x0000#16, status := { s.status with cmderr := .busy, errseen := true } }) ∧
    (c ∉ table.map Prod.fst →
      exec (.rxArm c) s = .next { s with
        res := 0x0000#16, status := { s.status with cmderr := .badCode, errseen := true } })

/-- R170: while ARMED and with more bytes to come, `RX.BYTE b` stores, sums and counts the byte and returns how many are still
expected. The premises on `RXCNT` and `RXBUF` hold in every state of the invariant (R32(b), R8, log entry 9). -/
def Obligations.RxByteTakesByte : Prop :=
  ∀ (b : Byte) (s : State),
    decodeWord (BitVec.ofNat 24 (0x210000 + b.toNat)) = .ok (.rxByte b) ∧
    (s.status.rxst = .armed → s.rxcnt.toNat + 1 < s.rxexpqty.toNat → s.rxexpqty.toNat ≤ s.cfg.params.rxBufBytes →
      s.rxbuf.wf = true →
      ∃ t, exec (.rxByte b) s = .next t ∧
        t = { s with
          rxbuf := t.rxbuf, rxacc := s.rxacc + b, rxcnt := BitVec.ofNat 8 (s.rxcnt.toNat + 1),
          res := BitVec.ofNat 16 (s.rxexpqty.toNat - (s.rxcnt.toNat + 1)), status := { s.status with cmderr := .none } } ∧
        ∀ k, t.rxbuf.read k = if k = s.rxcnt.toNat then b else s.rxbuf.read k)

/-- R169 and R170: the last byte of a frame is stored, summed and counted, `RES` is 0, and the verdict is taken in the same
step, in the order checksum, quantity, code. -/
def Obligations.RxByteJudgesFrame : Prop :=
  ∀ (b : Byte) (s : State), s.status.rxst = .armed → s.rxcnt.toNat + 1 = s.rxexpqty.toNat →
    s.rxexpqty.toNat ≤ s.cfg.params.rxBufBytes → s.rxbuf.wf = true →
    ∃ t e, exec (.rxByte b) s = .next t ∧
      (∀ k, t.rxbuf.read k = if k = s.rxcnt.toNat then b else s.rxbuf.read k) ∧
      e = (if s.rxacc + b ≠ 0x00#8 then Cause.checksumMismatch
        else if t.rxbuf.read 0 ≠ s.rxexpqty then .quantityMismatch
        else if t.rxbuf.read 1 ≠ s.rxexpcode then .unexpectedCode
        else .none) ∧
      t = { s with
        rxbuf := t.rxbuf, rxacc := s.rxacc + b, rxcnt := s.rxexpqty, res := 0x0000#16
        status := { s.status with
          rxst := if e = .none then .doneOk else .doneErr
          rxerr := e, cmderr := .none, errseen := s.status.errseen || (e != .none) } }

/-- R171: a byte offered while not ARMED is dropped; only `STRAY`, `RES` and `CMDERR` are written. -/
def Obligations.RxByteStray : Prop :=
  ∀ (b : Byte) (s : State), s.status.rxst ≠ .armed →
    exec (.rxByte b) s = .next { s with
      res := 0x0000#16, status := { s.status with stray := true, cmderr := .none } }

/-- R172: `RX.ABORT` drops the frame and returns to IDLE; while ARMED it records RESPONSE_TIMEOUT and sets `ERRSEEN`,
otherwise `RXERR` and `ERRSEEN` stay; `RXEXPCODE` and `RXEXPQTY` always stay. -/
def Obligations.RxAbortReturnsToIdle : Prop :=
  decodeWord 0x220000#24 = .ok .rxAbort ∧
  ∀ s : State, ∃ t, exec .rxAbort s = .next t ∧
    t = { s with
      rxcnt := 0#8, rxacc := 0x00#8, rxbuf := t.rxbuf, res := 0x0000#16
      status := { s.status with
        rxst := .idle, cmderr := .none
        rxerr := if s.status.rxst = .armed then .responseTimeout else s.status.rxerr
        errseen := s.status.errseen || decide (s.status.rxst = .armed) } } ∧
    ∀ k, t.rxbuf.read k = 0x00#8

/-- R173: `RX.HDR` gives the code byte above the quantity byte once a frame is complete, accepted or not, and fails with
NOT_READY in IDLE and ARMED. -/
def Obligations.RxHdrReadsHeader : Prop :=
  decodeWord 0x230000#24 = .ok .rxHdr ∧
  ∀ s : State,
    (s.status.rxst = .doneOk ∨ s.status.rxst = .doneErr →
      exec .rxHdr s = .next { s with
        res := s.rxbuf.read 1 ++ s.rxbuf.read 0, status := { s.status with cmderr := .none } }) ∧
    (s.status.rxst = .idle ∨ s.status.rxst = .armed →
      exec .rxHdr s = .next { s with
        res := 0x0000#16, status := { s.status with cmderr := .notReady, errseen := true } })

/-- R174: `RX.RD i` gives payload byte `i`, at frame offset `2 + i`, of an accepted frame (one that `RXBUF` holds: R7(b));
RANGE beyond the payload; NOT_READY, tested first, unless DONE_OK. -/
def Obligations.RxRdReadsPayloadByte : Prop :=
  ∀ (i : Byte) (s : State),
    decodeWord (BitVec.ofNat 24 (0x240000 + i.toNat)) = .ok (.rxRd i) ∧
    (s.status.rxst = .doneOk → i.toNat + 3 < s.rxexpqty.toNat → s.rxexpqty.toNat ≤ s.cfg.params.rxBufBytes →
      exec (.rxRd i) s = .next { s with
        res := (s.rxbuf.read (2 + i.toNat)).setWidth 16, status := { s.status with cmderr := .none } }) ∧
    (s.status.rxst = .doneOk → s.rxexpqty.toNat ≤ i.toNat + 3 →
      exec (.rxRd i) s = .next { s with
        res := 0x0000#16, status := { s.status with cmderr := .range, errseen := true } }) ∧
    (s.status.rxst ≠ .doneOk →
      exec (.rxRd i) s = .next { s with
        res := 0x0000#16, status := { s.status with cmderr := .notReady, errseen := true } })

/-- R175 and R176: `RX.RD16 off` gives `low | (high << 8)` with the low byte at `off`, at any alignment, up to the last offset
`RXEXPQTY − 5`; RANGE beyond it; NOT_READY, tested first, unless DONE_OK. -/
def Obligations.RxRd16ReadsLittleEndian : Prop :=
  ∀ (off : Byte) (s : State),
    decodeWord (BitVec.ofNat 24 (0x250000 + off.toNat)) = .ok (.rxRd16 off) ∧
    (s.status.rxst = .doneOk → off.toNat + 5 ≤ s.rxexpqty.toNat → s.rxexpqty.toNat ≤ s.cfg.params.rxBufBytes →
      exec (.rxRd16 off) s = .next { s with
        res := (s.rxbuf.read (2 + off.toNat)).setWidth 16 ||| ((s.rxbuf.read (3 + off.toNat)).setWidth 16 <<< 8),
        status := { s.status with cmderr := .none } }) ∧
    (s.status.rxst = .doneOk → s.rxexpqty.toNat < off.toNat + 5 →
      exec (.rxRd16 off) s = .next { s with
        res := 0x0000#16, status := { s.status with cmderr := .range, errseen := true } }) ∧
    (s.status.rxst ≠ .doneOk →
      exec (.rxRd16 off) s = .next { s with
        res := 0x0000#16, status := { s.status with cmderr := .notReady, errseen := true } })

/-- R177 (table R160): `RX.QTY c` gives the response length of each of the four codes and fails with BAD_CODE for others. -/
def Obligations.RxQtyLooksUpLength : Prop :=
  ∀ (c : Byte) (s : State),
    let p := s.cfg.params
    let table := [(p.status1Code, p.rspQty1), (p.status2Code, p.rspQty2), (p.status3Code, p.rspQty3),
      (p.setValueCode, p.rspQtyAck)]
    decodeWord (BitVec.ofNat 24 (0x260000 + c.toNat)) = .ok (.rxQty c) ∧
    (∀ q, (c, q) ∈ table →
      exec (.rxQty c) s = .next { s with res := q.setWidth 16, status := { s.status with cmderr := .none } }) ∧
    (c ∉ table.map Prod.fst →
      exec (.rxQty c) s = .next { s with
        res := 0x0000#16, status := { s.status with cmderr := .badCode, errseen := true } })

/-- R178: from any state that is not ARMED, `RX.ARM c` and the bytes of `f` by `RX.BYTE` end in DONE_OK exactly when
`deframe(c, f)` accepts, and then `RX.RD` and `RX.RD16` return the payload's bytes and fields; they end in DONE_ERR with
`RXERR` = e exactly when `deframe(c, f)` answers e. -/
def Obligations.CommandPathIsDeframe : Prop :=
  ∀ (s : State) (c q : Byte) (f : List Byte), s.status.rxst ≠ .armed → rspQty s.cfg.params c = some q →
    f.length = q.toNat →
    ∃ t, runWords (wordsOf s.cfg.params (expandPseudo (.rxFrame c f))) s = .next t ∧
      (t.status.rxst = .doneOk ↔ ∃ p, deframe s.cfg.params c f = some (.ok p)) ∧
      (∀ e, (t.status.rxst = .doneErr ∧ t.status.rxerr = e) ↔ deframe s.cfg.params c f = some (.error e)) ∧
      (∀ p, deframe s.cfg.params c f = some (.ok p) →
        (∀ i b, p[i]? = some b →
          ∃ u, exec (.rxRd (BitVec.ofNat 8 i)) t = .next u ∧ u.res = b.setWidth 16) ∧
        (∀ o v, le16 p o = some v → ∃ u, exec (.rxRd16 (BitVec.ofNat 8 o)) t = .next u ∧ u.res = v))

/-! ### Whole frames (the model's reading of the frame rows: log entries 4 and 5) -/

/-- A request frame of a status code is built by the serializer (R72, R130, log entry 4): the host issues `TX.STATUS` of its
code, which changes no state of the block, and the step that executes it leaves `03 c (0xFD − c)` and zeros in `TXBUF`. -/
def Obligations.RequestStatusFramesAreBuilt : Prop :=
  ∀ (s : State) (i : Instr) (c : Byte),
    (i, c) ∈ [(Instr.reqStatus1, s.cfg.params.status1Code), (.reqStatus2, s.cfg.params.status2Code),
      (.reqStatus3, s.cfg.params.status3Code)] →
    ∃ t u, exec i s = .next t ∧
      t = { s with port := .present (.word (BitVec.ofNat 24 (0x100000 + c.toNat))) :: s.port } ∧
      step t = .next u ∧
      u = { s with txbuf := u.txbuf, txlen := 3#5, res := 0x0000#16, status := { s.status with cmderr := .none } } ∧
      ∀ k, u.txbuf.read k = [0x03#8, c, 0xFD#8 - c].getD k 0x00#8

/-- A throttle command frame is built by the serializer (R73, R131, log entry 4): the host issues `TX.THR` of its throttle,
which changes no state of the block, and the step that executes it leaves the bytes of the frame's own encoding in `TXBUF`;
a throttle outside the domain fails there with RANGE. -/
def Obligations.RequestSetValueFrameIsBuilt : Prop :=
  ∀ (s : State) (raw : Half) (f : List Byte),
    let t := { s with port := .present (.word (BitVec.ofNat 24 (0x110000 + raw.toNat))) :: s.port }
    exec (.reqSetValue raw) s = .next t ∧
    (WellFormed s.cfg.params (.reqSetValue raw) = true →
      encode s.cfg.params (.reqSetValue raw) = .frame .request f →
      ∃ u, step t = .next u ∧
        u = { s with txbuf := u.txbuf, txlen := 23#5, res := 0x0000#16, status := { s.status with cmderr := .none } } ∧
        ∀ k, u.txbuf.read k = f.getD k 0x00#8) ∧
    (WellFormed s.cfg.params (.reqSetValue raw) = false →
      step t = .next { s with
        res := 0x0000#16, status := { s.status with cmderr := .range, errseen := true } })

/-- A response frame that the block has just been armed for (R74, R75, R169, R170, log entry 5): once its `RX.BYTE` commands
have executed, `RXBUF` holds its bytes, and it is accepted exactly when its bytes sum to 0. -/
def Obligations.ResponseFrameIsTakenWhenArmed : Prop :=
  ∀ (s : State) (i : Instr) (f : List Byte), isResponse i = true → WellFormed s.cfg.params i = true →
    encode s.cfg.params i = .frame .response f →
    s.status.rxst = .armed → f.head? = some s.rxexpqty → f[1]? = some s.rxexpcode →
    s.rxcnt = 0#8 → s.rxacc = 0x00#8 → s.rxbuf = Memory.empty →
    ∃ t u e, exec i s = .next t ∧ stepTimes f.length t = .next u ∧
      e = (if sum8 f = 0x00#8 then Cause.none else .checksumMismatch) ∧
      (∀ k, u.rxbuf.read k = f.getD k 0x00#8) ∧
      u = { s with
        rxbuf := u.rxbuf, rxacc := sum8 f, rxcnt := s.rxexpqty, res := 0x0000#16
        status := { s.status with
          rxst := if e = .none then .doneOk else .doneErr
          rxerr := e, cmderr := .none, errseen := s.status.errseen || (e != .none) } }

/-- Every byte of a response frame is stray while the block is not ARMED (R171, log entry 5). -/
def Obligations.ResponseFrameIsStrayWhenNotArmed : Prop :=
  ∀ (s : State) (i : Instr) (f : List Byte), isResponse i = true → encode s.cfg.params i = .frame .response f →
    s.status.rxst ≠ .armed →
    ∃ t, exec i s = .next t ∧ stepTimes f.length t =
      .next { s with res := 0x0000#16, status := { s.status with stray := true, cmderr := .none } }

/-- R14 for a response frame (log entry 5): in every state, the frame reaches the block as one `RX.BYTE` command for each of
its bytes, in wire order. The frame itself changes no state of the block; executing the commands is the run of `RX.FEED` of
its bytes (R86). -/
def Obligations.ResponseFrameIsItsByteCommands : Prop :=
  ∀ (s : State) (i : Instr) (f : List Byte), isResponse i = true → encode s.cfg.params i = .frame .response f →
    ∃ t, exec i s = .next t ∧
      t = { s with port := f.map (fun b => .present (.word (BitVec.ofNat 24 (0x210000 + b.toNat)))) ++ s.port } ∧
      stepTimes f.length t = runWords (wordsOf s.cfg.params (expandPseudo (.rxFeed f))) s

/-! ### Rules of the whole machine -/

/-- R223: a command that fails is precise: the state after it differs from the state before it in `RES`, `CMDERR` and
`ERRSEEN` only. (`NOP` and `STAT.RD` do not write `CMDERR`: R30; a whole frame is no command.) -/
def Obligations.FailingCommandIsPrecise : Prop :=
  ∀ (i : Instr) (s t : State), exec i s = .next t → keepsCmdErr i = false → t.status.cmderr ≠ .none →
    t = { s with
      res := 0x0000#16, status := { s.status with cmderr := t.status.cmderr, errseen := true } }

/-- R221 and R30: what each command can leave in `CMDERR`: success or one of its causes; `NOP` and `STAT.RD` leave it,
and so does a whole frame, in place of which the host issues commands (log entries 4 and 5). -/
def Obligations.CausesOfEachCommand : Prop :=
  ∀ (i : Instr) (s t : State), exec i s = .next t →
    (keepsCmdErr i = true → t.status.cmderr = s.status.cmderr) ∧
    (keepsCmdErr i = false → t.status.cmderr = .none ∨ t.status.cmderr ∈ possibleCauses i)

/-- R33 (with R22 to R31, R66, R253): each register is written only by its commands, row by row of the access table; no
command changes the parameters. No command changes the inputs still to come (log entry 3), and a whole frame changes nothing
but them (log entries 4 and 5). -/
def Obligations.RegistersHaveOnlyTheirWriters : Prop :=
  ∀ (i : Instr) (s t : State), exec i s = .next t →
    t.cfg = s.cfg ∧
    (isFrame i = false → t.port = s.port) ∧
    (isFrame i = true → t = { s with port := t.port }) ∧
    (writesAcc i = false → t.acc = s.acc) ∧
    (i = .nop → t.res = s.res) ∧
    (writesTx i = false → t.txbuf = s.txbuf ∧ t.txlen = s.txlen) ∧
    (writesExpected i = false → t.rxexpcode = s.rxexpcode ∧ t.rxexpqty = s.rxexpqty) ∧
    (writesRx i = false → t.rxcnt = s.rxcnt ∧ t.rxacc = s.rxacc ∧ t.rxbuf = s.rxbuf ∧
      t.status.rxst = s.status.rxst ∧ t.status.rxerr = s.status.rxerr) ∧
    (writesStray i = false → t.status.stray = s.status.stray) ∧
    (keepsCmdErr i = true → t.status.cmderr = s.status.cmderr ∧ t.status.errseen = s.status.errseen) ∧
    (writesErrSeen i = false → t.status.cmderr = .none → t.status.errseen = s.status.errseen)

/-- R22: only the checksum unit's commands depend on `ACC`: any other instruction does the same whatever `ACC` holds. -/
def Obligations.AccInvisibleOutsideChecksumUnit : Prop :=
  ∀ (i : Instr) (s t : State) (a : Byte), usesAcc i = false → exec i s = .next t →
    exec i { s with acc := a } = .next { t with acc := a }

/-- R28, R29, R228: once set, `ERRSEEN` and `STRAY` stay set through every instruction but `STAT.CLR`. -/
def Obligations.StickyFlagsStaySet : Prop :=
  ∀ (i : Instr) (s t : State), exec i s = .next t → i ≠ .statClr →
    (s.status.errseen = true → t.status.errseen = true) ∧ (s.status.stray = true → t.status.stray = true)

/-- R61 and R264: a held frame, its bytes and its verdict, stays as it is through every instruction but `RX.ARM` and
`RX.ABORT`. -/
def Obligations.HeldFrameStaysUntilArmOrAbort : Prop :=
  ∀ (i : Instr) (s t : State), s.status.rxst = .doneOk ∨ s.status.rxst = .doneErr → (∀ c, i ≠ .rxArm c) → i ≠ .rxAbort →
    exec i s = .next t →
    t.rxbuf = s.rxbuf ∧ t.rxcnt = s.rxcnt ∧ t.rxacc = s.rxacc ∧ t.rxexpcode = s.rxexpcode ∧ t.rxexpqty = s.rxexpqty ∧
    t.status.rxst = s.status.rxst ∧ t.status.rxerr = s.status.rxerr

/-- R267 (R170, R172, R250): the block leaves ARMED only in a step that resets it, aborts, or takes the byte that completes
the frame. -/
def Obligations.ArmedIsLeftOnlyByThese : Prop :=
  ∀ s t : State, step s = .next t → s.status.rxst = .armed → t.status.rxst ≠ .armed →
    ∃ e rest, s.port = e :: rest ∧
      (e = .reset ∨ ∃ enc i, e = .present enc ∧ decode s.cfg.params enc = .ok i ∧
        (i = .rxAbort ∨ ∃ b, i = .rxByte b ∧ s.rxcnt + 1#8 = s.rxexpqty))

/-- R56: a read leaves the accumulators, the buffers and `RXST` as they are, and reading again gives the same `RES` and
changes nothing more. -/
def Obligations.ReadsAreIdempotent : Prop :=
  ∀ (i : Instr) (s t : State), isRead i = true → exec i s = .next t →
    exec i t = .next t ∧ t.acc = s.acc ∧ t.rxacc = s.rxacc ∧ t.txbuf = s.txbuf ∧ t.rxbuf = s.rxbuf ∧
    t.status.rxst = s.status.rxst

/-! ### The invariants of R32 -/

/-- R32: reset establishes the invariants. -/
def Obligations.InvariantsHoldAtReset : Prop := Inv State.reset

/-- R32: every step, of every input the host can present, keeps the invariants, from every state that has them. -/
def Obligations.StepKeepsInvariants : Prop := ∀ s t : State, Inv s → step s = .next t → Inv t

/-- R205: the step answers a next state in every state, within the invariants or not: every instruction completes, and so
does the step for every word, on reset, with nothing presented, and for every frame of the eight kinds. A whole-frame transfer
that is no frame, which the block does not know, is refused (the model's choice, log entry 7). -/
def Obligations.StepTotalExceptOnNonFrames : Prop :=
  (∀ (i : Instr) (s : State), ∃ t, exec i s = .next t) ∧
  (∀ s : State, (∀ dir bs rest, s.port = .present (.frame dir bs) :: rest → ∃ i, decodeFrame s.cfg.params dir bs = .ok i) →
    ∃ t, step s = .next t) ∧
  (∀ (s : State) dir bs rest why, s.port = .present (.frame dir bs) :: rest →
    decodeFrame s.cfg.params dir bs = .error why → step s = .refused .notAFrame)

/-- R169: a verdict that is held is the verdict of `deframe` on the bytes held, and every step keeps that true. -/
def Obligations.HeldVerdictIsDeframes : Prop :=
  HeldVerdict State.reset ∧ ∀ s t : State, Inv s → HeldVerdict s → step s = .next t → HeldVerdict t
end

