-- ==== Sys2Proof/Laws/PerInstr.lean ====
section
/-! SUPPORT. A law of every instruction as syntax: its encoding carries the fixed bits of its row of spec/opcode_table.json
(the row's "fixed" bits of a command word, quantity and code of a frame). -/

namespace Sys2Proof.Laws.EncodeMatchesRow

open Sys2Proof.Machine

/-- The encoding is a word whose bits 23 down to `lo` have this value (a row's "fixed" entry). -/
def fixedBits (lo value : Nat) (e : Encoded) : Prop := ∃ w, e = .word w ∧ w.toNat / 2 ^ lo = value

/-- The encoding is a frame of this direction that begins with this header. -/
def header (dir : Direction) (quantity code : Byte) (e : Encoded) : Prop :=
  ∃ rest, e = .frame dir (quantity :: code :: rest)

/-- The encoding of an instruction carries the fixed bits of its row. -/
def Statement (i : Instr) : Prop :=
  ∀ p : Params,
    match i with
    | .nop => fixedBits 0 0 (encode p i)
    | .csumClr => fixedBits 0 65536 (encode p i)
    | .csumAdd _ => fixedBits 8 512 (encode p i)
    | .csumRd => fixedBits 0 196608 (encode p i)
    | .csumGen => fixedBits 0 262144 (encode p i)
    | .csumChk _ => fixedBits 8 1280 (encode p i)
    | .txStatus _ => fixedBits 8 4096 (encode p i)
    | .txThr _ => fixedBits 16 17 (encode p i)
    | .txLen => fixedBits 0 1179648 (encode p i)
    | .txRd _ => fixedBits 8 4864 (encode p i)
    | .rxArm _ => fixedBits 8 8192 (encode p i)
    | .rxByte _ => fixedBits 8 8448 (encode p i)
    | .rxAbort => fixedBits 0 2228224 (encode p i)
    | .rxHdr => fixedBits 0 2293760 (encode p i)
    | .rxRd _ => fixedBits 8 9216 (encode p i)
    | .rxRd16 _ => fixedBits 8 9472 (encode p i)
    | .rxQty _ => fixedBits 8 9728 (encode p i)
    | .statRd => fixedBits 0 3145728 (encode p i)
    | .statClr => fixedBits 0 3211264 (encode p i)
    | .reqStatus1 => header .request p.reqQty p.status1Code (encode p i)
    | .reqStatus2 => header .request p.reqQty p.status2Code (encode p i)
    | .reqStatus3 => header .request p.reqQty p.status3Code (encode p i)
    | .reqSetValue _ => header .request p.thrQty p.setValueCode (encode p i)
    | .rspStatus1 _ _ => header .response p.rspQty1 p.status1Code (encode p i)
    | .rspStatus2 _ _ => header .response p.rspQty2 p.status2Code (encode p i)
    | .rspStatus3 _ _ => header .response p.rspQty3 p.status3Code (encode p i)
    | .rspSetValueAck _ => header .response p.rspQtyAck p.setValueCode (encode p i)

/-- A command word as a number. -/
theorem cmdWord_toNat (op : Byte) (arg : Half) : (cmdWord op arg).toNat = op.toNat * 65536 + arg.toNat := by
  unfold cmdWord
  rw [BitVec.toNat_append, Nat.shiftLeft_eq, Nat.or_comm, Nat.mul_comm, Nat.or_comm]
  exact (Nat.two_pow_add_eq_or_of_lt arg.isLt op.toNat).symm.trans (by ring)

/-- The fixed bits of a word without operand. -/
theorem fixed_none (op : Byte) : (cmdWord op 0#16).toNat / 2 ^ 0 = op.toNat * 65536 := by
  rw [cmdWord_toNat]; simp

/-- The fixed bits of a word with an operand byte. -/
theorem fixed_byte (op b : Byte) : (cmdWord op (byteArg b)).toNat / 2 ^ 8 = op.toNat * 256 := by
  have hb := b.isLt
  rw [cmdWord_toNat, byteArg, BitVec.toNat_setWidth, Nat.mod_eq_of_lt (by omega)]; omega

/-- The fixed bits of a word with a 16-bit operand. -/
theorem fixed_half (op : Byte) (h : Half) : (cmdWord op h).toNat / 2 ^ 16 = op.toNat := by
  have hh := h.isLt
  rw [cmdWord_toNat]; omega

theorem nop : Statement .nop := fun _ => ⟨_, rfl, fixed_none 0x00#8⟩
theorem csumClr : Statement .csumClr := fun _ => ⟨_, rfl, fixed_none 0x01#8⟩
theorem csumAdd (b : Byte) : Statement (.csumAdd b) := fun _ => ⟨_, rfl, fixed_byte 0x02#8 b⟩
theorem csumRd : Statement .csumRd := fun _ => ⟨_, rfl, fixed_none 0x03#8⟩
theorem csumGen : Statement .csumGen := fun _ => ⟨_, rfl, fixed_none 0x04#8⟩
theorem csumChk (b : Byte) : Statement (.csumChk b) := fun _ => ⟨_, rfl, fixed_byte 0x05#8 b⟩
theorem txStatus (b : Byte) : Statement (.txStatus b) := fun _ => ⟨_, rfl, fixed_byte 0x10#8 b⟩
theorem txThr (raw : Half) : Statement (.txThr raw) := fun _ => ⟨_, rfl, fixed_half 0x11#8 raw⟩
theorem txLen : Statement .txLen := fun _ => ⟨_, rfl, fixed_none 0x12#8⟩
theorem txRd (b : Byte) : Statement (.txRd b) := fun _ => ⟨_, rfl, fixed_byte 0x13#8 b⟩
theorem rxArm (b : Byte) : Statement (.rxArm b) := fun _ => ⟨_, rfl, fixed_byte 0x20#8 b⟩
theorem rxByte (b : Byte) : Statement (.rxByte b) := fun _ => ⟨_, rfl, fixed_byte 0x21#8 b⟩
theorem rxAbort : Statement .rxAbort := fun _ => ⟨_, rfl, fixed_none 0x22#8⟩
theorem rxHdr : Statement .rxHdr := fun _ => ⟨_, rfl, fixed_none 0x23#8⟩
theorem rxRd (b : Byte) : Statement (.rxRd b) := fun _ => ⟨_, rfl, fixed_byte 0x24#8 b⟩
theorem rxRd16 (b : Byte) : Statement (.rxRd16 b) := fun _ => ⟨_, rfl, fixed_byte 0x25#8 b⟩
theorem rxQty (b : Byte) : Statement (.rxQty b) := fun _ => ⟨_, rfl, fixed_byte 0x26#8 b⟩
theorem statRd : Statement .statRd := fun _ => ⟨_, rfl, fixed_none 0x30#8⟩
theorem statClr : Statement .statClr := fun _ => ⟨_, rfl, fixed_none 0x31#8⟩
theorem reqStatus1 : Statement .reqStatus1 := fun _ => ⟨_, rfl⟩
theorem reqStatus2 : Statement .reqStatus2 := fun _ => ⟨_, rfl⟩
theorem reqStatus3 : Statement .reqStatus3 := fun _ => ⟨_, rfl⟩
theorem reqSetValue (raw : Half) : Statement (.reqSetValue raw) := fun _ => ⟨_, rfl⟩
theorem rspStatus1 (payload : List Byte) (k : Byte) : Statement (.rspStatus1 payload k) := fun _ => ⟨_, rfl⟩
theorem rspStatus2 (payload : List Byte) (k : Byte) : Statement (.rspStatus2 payload k) := fun _ => ⟨_, rfl⟩
theorem rspStatus3 (payload : List Byte) (k : Byte) : Statement (.rspStatus3 payload k) := fun _ => ⟨_, rfl⟩
theorem rspSetValueAck (k : Byte) : Statement (.rspSetValueAck k) := fun _ => ⟨_, rfl⟩

end Sys2Proof.Laws.EncodeMatchesRow
end

