-- ==== Sys2Proof/Laws/Decode.lean ====
section
/-! SUPPORT. The parts of a command word: taking apart what was put together, and putting together what was taken apart;
and the commands of an expansion. -/

namespace Sys2Proof.Machine

open Sys2Proof.Laws.EncodeMatchesRow (cmdWord_toNat)

/-- The opcode of a word put together. -/
@[simp] theorem opOf_cmdWord (op : Byte) (arg : Half) : opOf (cmdWord op arg) = op := by
  apply BitVec.eq_of_toNat_eq
  have h1 := op.isLt
  have h2 := arg.isLt
  rw [opOf, BitVec.extractLsb'_toNat, cmdWord_toNat, Nat.shiftRight_eq_div_pow]
  omega

/-- The operand of a word put together. -/
@[simp] theorem argOf_cmdWord (op : Byte) (arg : Half) : argOf (cmdWord op arg) = arg := by
  apply BitVec.eq_of_toNat_eq
  have h2 := arg.isLt
  rw [argOf, BitVec.extractLsb'_toNat, cmdWord_toNat, Nat.shiftRight_eq_div_pow]
  omega

/-- A word is its opcode and its operand. -/
theorem cmdWord_parts (w : CmdWord) : cmdWord (opOf w) (argOf w) = w := by
  apply BitVec.eq_of_toNat_eq
  have h := w.isLt
  rw [cmdWord_toNat, opOf, argOf, BitVec.extractLsb'_toNat, BitVec.extractLsb'_toNat, Nat.shiftRight_eq_div_pow,
    Nat.shiftRight_eq_div_pow]
  omega

/-- The word with a number's bits is the word of its parts. -/
theorem cmdWord_ofNat (op : Byte) (n : Nat) (h : n < 65536) :
    BitVec.ofNat 24 (op.toNat * 65536 + n) = cmdWord op (BitVec.ofNat 16 n) := by
  apply BitVec.eq_of_toNat_eq
  have h1 := op.isLt
  rw [cmdWord_toNat, BitVec.toNat_ofNat, BitVec.toNat_ofNat]
  omega

/-- The high half of an operand byte is 0. -/
@[simp] theorem byteArg_high (b : Byte) : (byteArg b).extractLsb' 8 8 = 0#8 := by
  apply BitVec.eq_of_toNat_eq
  have h := b.isLt
  rw [byteArg, BitVec.extractLsb'_toNat, BitVec.toNat_setWidth, Nat.shiftRight_eq_div_pow]
  simp only [BitVec.toNat_ofNat]
  omega

/-- The low half of an operand byte is the byte. -/
@[simp] theorem byteArg_low (b : Byte) : (byteArg b).extractLsb' 0 8 = b := by
  apply BitVec.eq_of_toNat_eq
  have h := b.isLt
  rw [byteArg, BitVec.extractLsb'_toNat, BitVec.toNat_setWidth, Nat.shiftRight_eq_div_pow]
  omega

/-- An operand whose high half is 0 is its low byte. -/
theorem byteArg_of_high {a : Half} (h : a.extractLsb' 8 8 = 0#8) : byteArg (a.extractLsb' 0 8) = a := by
  have h' := congrArg BitVec.toNat h
  rw [BitVec.extractLsb'_toNat, Nat.shiftRight_eq_div_pow] at h'
  simp only [BitVec.toNat_ofNat] at h'
  apply BitVec.eq_of_toNat_eq
  have ha := a.isLt
  rw [byteArg, BitVec.toNat_setWidth, BitVec.extractLsb'_toNat, Nat.shiftRight_eq_div_pow]
  omega

/-- A 16-bit value put together from its two bytes. -/
theorem half_parts (x : Half) : (x.extractLsb' 8 8 ++ x.extractLsb' 0 8 : BitVec 16) = x := by
  apply BitVec.eq_of_toNat_eq
  have h := x.isLt
  rw [BitVec.toNat_append, Nat.shiftLeft_eq, BitVec.extractLsb'_toNat, BitVec.extractLsb'_toNat, Nat.mul_comm,
    ← Nat.two_pow_add_eq_or_of_lt (by omega), Nat.shiftRight_eq_div_pow, Nat.shiftRight_eq_div_pow]
  omega

/-- Each command of `TX.DUMP n` reads at its own offset, none of them wrapped (R86, log entry 14). -/
theorem expandPseudo_txDump_getElem? (n : Fin 257) {k : Nat} (h : k < n.val) :
    ∃ i : Byte, i.toNat = k ∧ (expandPseudo (.txDump n))[k]? = some (.txRd i) :=
  ⟨BitVec.ofNat 8 k, by rw [BitVec.toNat_ofNat]; omega, by simp [expandPseudo, h]⟩

end Sys2Proof.Machine
end

