-- ==== Sys2Proof/Laws/Memory.lean ====
section
/-! SUPPORT. The laws of the frame buffers: a read after a write, and that every operation keeps the canonical form. -/

namespace Sys2Proof.Machine

/-! ### Cells -/

/-- A list that rises from a bound rises from every lower one. -/
theorem cellsRise_mono {lo hi : Nat} (h : lo ≤ hi) : ∀ {cs : List Host.Cell}, cellsRise hi cs = true → cellsRise lo cs = true
  | [], _ => rfl
  | (k, v) :: cs, hc => by
    simp only [cellsRise, Bool.and_eq_true, decide_eq_true_eq] at hc ⊢
    exact ⟨⟨le_trans h hc.1.1, hc.1.2⟩, hc.2⟩

/-- Below its bound a rising list holds nothing. -/
theorem lookupCell_below {lo a : Nat} (ha : a < lo) :
    ∀ {cs : List Host.Cell}, cellsRise lo cs = true → lookupCell cs a = unlistedByte
  | [], _ => rfl
  | (k, v) :: cs, hc => by
    simp only [cellsRise, Bool.and_eq_true, decide_eq_true_eq] at hc
    rw [lookupCell, if_neg (by omega), lookupCell_below (by omega) hc.2]

/-- All that putting a cell in front does to a lookup. -/
theorem lookupCell_consCell (a : Nat) (b : Byte) {lo : Nat} (cs : List Host.Cell) (hc : cellsRise lo cs = true)
    (ha : a < lo) (x : Nat) : lookupCell (consCell a b cs) x = if x = a then b else lookupCell cs x := by
  unfold consCell
  split
  · rename_i hb
    split
    · rename_i hx; subst hx; rw [lookupCell_below ha hc, hb]
    · rfl
  · simp only [lookupCell, eq_comm]

/-- All that a write does to a lookup. -/
theorem lookupCell_insertCell {lo : Nat} (a : Nat) (b : Byte) (x : Nat) :
    ∀ {cs : List Host.Cell}, cellsRise lo cs = true →
      lookupCell (insertCell cs a b) x = if x = a then b else lookupCell cs x
  | [], _ => lookupCell_consCell a b (lo := a + 1) [] rfl (by omega) x
  | (k, v) :: cs, hc => by
    simp only [cellsRise, Bool.and_eq_true, decide_eq_true_eq] at hc
    rw [insertCell]
    split
    · rename_i h
      refine lookupCell_consCell a b (lo := k) _ ?_ h x
      simp only [cellsRise, Bool.and_eq_true, decide_eq_true_eq]
      exact ⟨⟨le_refl k, hc.1.2⟩, hc.2⟩
    · split
      · rename_i h h'
        subst h'
        rw [lookupCell_consCell a b cs hc.2 (by omega) x]
        split
        · rfl
        · rename_i hx; rw [lookupCell, if_neg (Ne.symm hx)]
      · rename_i h h'
        rw [lookupCell, lookupCell_insertCell a b x hc.2, lookupCell]
        split
        · rename_i hk; rw [if_neg (by omega)]
        · rfl

/-- Putting a lower cell in front keeps the list rising. -/
theorem cellsRise_consCell {lo a : Nat} (b : Byte) {cs : List Host.Cell} (hl : lo ≤ a) (hc : cellsRise (a + 1) cs = true) :
    cellsRise lo (consCell a b cs) = true := by
  unfold consCell
  split
  · exact cellsRise_mono (by omega) hc
  · rename_i hb
    simp only [cellsRise, Bool.and_eq_true, decide_eq_true_eq, bne_iff_ne]
    exact ⟨⟨hl, hb⟩, hc⟩

/-- A write keeps the list rising. -/
theorem cellsRise_insertCell {lo a : Nat} (b : Byte) (hl : lo ≤ a) :
    ∀ {cs : List Host.Cell}, cellsRise lo cs = true → cellsRise lo (insertCell cs a b) = true
  | [], _ => cellsRise_consCell b hl rfl
  | (k, v) :: cs, hc => by
    have hc' := hc
    simp only [cellsRise, Bool.and_eq_true, decide_eq_true_eq] at hc
    rw [insertCell]
    split
    · refine cellsRise_consCell b hl ?_
      simp only [cellsRise, Bool.and_eq_true, decide_eq_true_eq]
      exact ⟨⟨by omega, hc.1.2⟩, hc.2⟩
    · split
      · rename_i h'; subst h'; exact cellsRise_consCell b hl hc.2
      · simp only [cellsRise, Bool.and_eq_true, decide_eq_true_eq]
        exact ⟨hc.1, cellsRise_insertCell b (by omega) hc.2⟩

/-- A write lists no offset beyond the written one and those listed before. -/
theorem insertCell_all {n a : Nat} (b : Byte) (ha : a < n) :
    ∀ {cs : List Host.Cell}, (cs.all fun c => decide (c.1 < n)) = true →
      ((insertCell cs a b).all fun c => decide (c.1 < n)) = true
  | [], _ => by
    unfold insertCell consCell; split <;> simp [ha]
  | (k, v) :: cs, h => by
    simp only [List.all_cons, Bool.and_eq_true, decide_eq_true_eq] at h
    rw [insertCell]
    split
    · unfold consCell; split <;> simp [ha, h.1, h.2]
    · split
      · unfold consCell; split <;> simp [ha, h.2]
      · simp [h.1, insertCell_all b ha h.2]

/-! ### Buffers -/

@[simp] theorem Memory.empty_wf : Memory.empty.wf = true := rfl
@[simp] theorem Memory.empty_within (n : Nat) : Memory.empty.within n = true := rfl
@[simp] theorem Memory.empty_read (a : Nat) : Memory.empty.read a = 0x00#8 := rfl

/-- All that a write does to a read, in a buffer in canonical form. -/
theorem Memory.read_write {m : Memory} (h : m.wf = true) (a : Nat) (b : Byte) (x : Nat) :
    (m.write a b).read x = if x = a then b else m.read x := lookupCell_insertCell a b x h

/-- A read of the written offset gives the byte written. -/
theorem Memory.read_write_same {m : Memory} (h : m.wf = true) (a : Nat) (b : Byte) : (m.write a b).read a = b := by
  rw [Memory.read_write h, if_pos rfl]

/-- A write leaves every other offset alone. -/
theorem Memory.read_write_other {m : Memory} (h : m.wf = true) {a x : Nat} (b : Byte) (hx : x ≠ a) :
    (m.write a b).read x = m.read x := by
  rw [Memory.read_write h, if_neg hx]

/-- A write keeps the canonical form. -/
theorem Memory.write_wf {m : Memory} (h : m.wf = true) (a : Nat) (b : Byte) : (m.write a b).wf = true :=
  cellsRise_insertCell b (Nat.zero_le a) h

/-- A write inside the buffer lists no offset outside it. -/
theorem Memory.write_within {m : Memory} {n : Nat} (h : m.within n = true) {a : Nat} (ha : a < n) (b : Byte) :
    (m.write a b).within n = true := insertCell_all b ha h

/-- Writing several bytes keeps the canonical form. -/
theorem Memory.writeBytes_wf : ∀ (bs : List Byte) {m : Memory} (_ : m.wf = true) (a : Nat), (m.writeBytes a bs).wf = true
  | [], _, h, _ => h
  | b :: bs, _, h, a => Memory.writeBytes_wf bs (Memory.write_wf h a b) (a + 1)

/-- Writing several bytes inside the buffer lists no offset outside it. -/
theorem Memory.writeBytes_within {n : Nat} : ∀ (bs : List Byte) {m : Memory} (_ : m.within n = true) {a : Nat}
    (_ : a + bs.length ≤ n), (m.writeBytes a bs).within n = true
  | [], _, h, _, _ => h
  | b :: bs, _, h, a, ha => by
    simp only [List.length_cons] at ha
    exact Memory.writeBytes_within bs (Memory.write_within h (by omega) b) (by omega)

/-- All that writing several bytes does to a read. -/
theorem Memory.read_writeBytes : ∀ (bs : List Byte) {m : Memory} (_ : m.wf = true) (a x : Nat),
    (m.writeBytes a bs).read x = if a ≤ x ∧ x < a + bs.length then bs.getD (x - a) 0x00#8 else m.read x
  | [], _, _, a, x => by
    rw [if_neg (by simp only [List.length_nil]; omega)]; rfl
  | b :: bs, m, h, a, x => by
    rw [Memory.writeBytes, Memory.read_writeBytes bs (Memory.write_wf h a b), Memory.read_write h]
    simp only [List.length_cons]
    by_cases hx : x = a
    · subst hx
      rw [if_neg (by omega), if_pos rfl, if_pos (by omega)]
      simp
    · rw [if_neg hx]
      by_cases hr : a + 1 ≤ x ∧ x < a + 1 + bs.length
      · rw [if_pos hr, if_pos (by omega), show x - a = (x - (a + 1)) + 1 by omega, List.getD_cons_succ]
      · rw [if_neg hr, if_neg (by omega)]

@[simp] theorem Memory.ofBytes_wf (bs : List Byte) : (Memory.ofBytes bs).wf = true := Memory.writeBytes_wf bs rfl 0

theorem Memory.ofBytes_within (bs : List Byte) {n : Nat} (h : bs.length ≤ n) : (Memory.ofBytes bs).within n = true :=
  Memory.writeBytes_within bs rfl (by omega)

/-- Reading a buffer made of bytes. -/
theorem Memory.read_ofBytes (bs : List Byte) (x : Nat) : (Memory.ofBytes bs).read x = bs.getD x 0x00#8 := by
  rw [Memory.ofBytes, Memory.read_writeBytes bs Memory.empty_wf 0 x]
  by_cases h : x < bs.length
  · rw [if_pos (by omega), Nat.sub_zero]
  · rw [if_neg (by omega), Memory.empty_read, List.getD_eq_default _ _ (by omega)]

@[simp] theorem Memory.bytes_length (m : Memory) : ∀ (n a : Nat), (m.bytes a n).length = n
  | 0, _ => rfl
  | n + 1, a => by rw [Memory.bytes, List.length_cons, Memory.bytes_length m n]

/-- The buffers of the reset state are in canonical form. -/
theorem reset_buffers_wf : State.reset.txbuf.wf = true ∧ State.reset.rxbuf.wf = true := ⟨rfl, rfl⟩

end Sys2Proof.Machine
end

