-- ==== Sys2Proof/Laws/State.lean ====
section
/-! SUPPORT. One lemma per field per update of the state, so that no proof unfolds a record update. -/

namespace Sys2Proof.Machine

/-! ### completeWith -/

@[simp] theorem completeWith_cfg (v : Half) (s : State) : (completeWith v s).cfg = s.cfg := rfl
@[simp] theorem completeWith_acc (v : Half) (s : State) : (completeWith v s).acc = s.acc := rfl
@[simp] theorem completeWith_res (v : Half) (s : State) : (completeWith v s).res = v := rfl
@[simp] theorem completeWith_txbuf (v : Half) (s : State) : (completeWith v s).txbuf = s.txbuf := rfl
@[simp] theorem completeWith_txlen (v : Half) (s : State) : (completeWith v s).txlen = s.txlen := rfl
@[simp] theorem completeWith_rxexpcode (v : Half) (s : State) : (completeWith v s).rxexpcode = s.rxexpcode := rfl
@[simp] theorem completeWith_rxexpqty (v : Half) (s : State) : (completeWith v s).rxexpqty = s.rxexpqty := rfl
@[simp] theorem completeWith_rxcnt (v : Half) (s : State) : (completeWith v s).rxcnt = s.rxcnt := rfl
@[simp] theorem completeWith_rxacc (v : Half) (s : State) : (completeWith v s).rxacc = s.rxacc := rfl
@[simp] theorem completeWith_rxbuf (v : Half) (s : State) : (completeWith v s).rxbuf = s.rxbuf := rfl
@[simp] theorem completeWith_status (v : Half) (s : State) : (completeWith v s).status = s.status.succeed := rfl
@[simp] theorem completeWith_port (v : Half) (s : State) : (completeWith v s).port = s.port := rfl

/-! ### raiseCause -/

@[simp] theorem raiseCause_cfg (e : Cause) (s : State) : (raiseCause e s).cfg = s.cfg := rfl
@[simp] theorem raiseCause_acc (e : Cause) (s : State) : (raiseCause e s).acc = s.acc := rfl
@[simp] theorem raiseCause_res (e : Cause) (s : State) : (raiseCause e s).res = 0x0000#16 := rfl
@[simp] theorem raiseCause_txbuf (e : Cause) (s : State) : (raiseCause e s).txbuf = s.txbuf := rfl
@[simp] theorem raiseCause_txlen (e : Cause) (s : State) : (raiseCause e s).txlen = s.txlen := rfl
@[simp] theorem raiseCause_rxexpcode (e : Cause) (s : State) : (raiseCause e s).rxexpcode = s.rxexpcode := rfl
@[simp] theorem raiseCause_rxexpqty (e : Cause) (s : State) : (raiseCause e s).rxexpqty = s.rxexpqty := rfl
@[simp] theorem raiseCause_rxcnt (e : Cause) (s : State) : (raiseCause e s).rxcnt = s.rxcnt := rfl
@[simp] theorem raiseCause_rxacc (e : Cause) (s : State) : (raiseCause e s).rxacc = s.rxacc := rfl
@[simp] theorem raiseCause_rxbuf (e : Cause) (s : State) : (raiseCause e s).rxbuf = s.rxbuf := rfl
@[simp] theorem raiseCause_status (e : Cause) (s : State) : (raiseCause e s).status = s.status.fail e := rfl
@[simp] theorem raiseCause_port (e : Cause) (s : State) : (raiseCause e s).port = s.port := rfl

/-! ### loadTx -/

@[simp] theorem loadTx_cfg (f : List Byte) (n : BitVec 5) (s : State) : (loadTx f n s).cfg = s.cfg := rfl
@[simp] theorem loadTx_acc (f : List Byte) (n : BitVec 5) (s : State) : (loadTx f n s).acc = s.acc := rfl
@[simp] theorem loadTx_res (f : List Byte) (n : BitVec 5) (s : State) : (loadTx f n s).res = s.res := rfl
@[simp] theorem loadTx_txbuf (f : List Byte) (n : BitVec 5) (s : State) : (loadTx f n s).txbuf = Memory.ofBytes f := rfl
@[simp] theorem loadTx_txlen (f : List Byte) (n : BitVec 5) (s : State) : (loadTx f n s).txlen = n := rfl
@[simp] theorem loadTx_rxexpcode (f : List Byte) (n : BitVec 5) (s : State) : (loadTx f n s).rxexpcode = s.rxexpcode := rfl
@[simp] theorem loadTx_rxexpqty (f : List Byte) (n : BitVec 5) (s : State) : (loadTx f n s).rxexpqty = s.rxexpqty := rfl
@[simp] theorem loadTx_rxcnt (f : List Byte) (n : BitVec 5) (s : State) : (loadTx f n s).rxcnt = s.rxcnt := rfl
@[simp] theorem loadTx_rxacc (f : List Byte) (n : BitVec 5) (s : State) : (loadTx f n s).rxacc = s.rxacc := rfl
@[simp] theorem loadTx_rxbuf (f : List Byte) (n : BitVec 5) (s : State) : (loadTx f n s).rxbuf = s.rxbuf := rfl
@[simp] theorem loadTx_status (f : List Byte) (n : BitVec 5) (s : State) : (loadTx f n s).status = s.status := rfl
@[simp] theorem loadTx_port (f : List Byte) (n : BitVec 5) (s : State) : (loadTx f n s).port = s.port := rfl

/-! ### clearFrame -/

@[simp] theorem clearFrame_cfg (s : State) : (clearFrame s).cfg = s.cfg := rfl
@[simp] theorem clearFrame_acc (s : State) : (clearFrame s).acc = s.acc := rfl
@[simp] theorem clearFrame_res (s : State) : (clearFrame s).res = s.res := rfl
@[simp] theorem clearFrame_txbuf (s : State) : (clearFrame s).txbuf = s.txbuf := rfl
@[simp] theorem clearFrame_txlen (s : State) : (clearFrame s).txlen = s.txlen := rfl
@[simp] theorem clearFrame_rxexpcode (s : State) : (clearFrame s).rxexpcode = s.rxexpcode := rfl
@[simp] theorem clearFrame_rxexpqty (s : State) : (clearFrame s).rxexpqty = s.rxexpqty := rfl
@[simp] theorem clearFrame_rxcnt (s : State) : (clearFrame s).rxcnt = 0#8 := rfl
@[simp] theorem clearFrame_rxacc (s : State) : (clearFrame s).rxacc = 0x00#8 := rfl
@[simp] theorem clearFrame_rxbuf (s : State) : (clearFrame s).rxbuf = Memory.empty := rfl
@[simp] theorem clearFrame_status (s : State) : (clearFrame s).status = s.status := rfl
@[simp] theorem clearFrame_port (s : State) : (clearFrame s).port = s.port := rfl

/-! ### judgeFrame -/

@[simp] theorem judgeFrame_cfg (s : State) : (judgeFrame s).cfg = s.cfg := rfl
@[simp] theorem judgeFrame_acc (s : State) : (judgeFrame s).acc = s.acc := rfl
@[simp] theorem judgeFrame_res (s : State) : (judgeFrame s).res = s.res := rfl
@[simp] theorem judgeFrame_txbuf (s : State) : (judgeFrame s).txbuf = s.txbuf := rfl
@[simp] theorem judgeFrame_txlen (s : State) : (judgeFrame s).txlen = s.txlen := rfl
@[simp] theorem judgeFrame_rxexpcode (s : State) : (judgeFrame s).rxexpcode = s.rxexpcode := rfl
@[simp] theorem judgeFrame_rxexpqty (s : State) : (judgeFrame s).rxexpqty = s.rxexpqty := rfl
@[simp] theorem judgeFrame_rxcnt (s : State) : (judgeFrame s).rxcnt = s.rxcnt := rfl
@[simp] theorem judgeFrame_rxacc (s : State) : (judgeFrame s).rxacc = s.rxacc := rfl
@[simp] theorem judgeFrame_rxbuf (s : State) : (judgeFrame s).rxbuf = s.rxbuf := rfl
@[simp] theorem judgeFrame_status (s : State) : (judgeFrame s).status =
    s.status.judge (verdict s.rxacc (s.rxbuf.read 0) (s.rxbuf.read 1) s.rxexpqty s.rxexpcode) := rfl
@[simp] theorem judgeFrame_port (s : State) : (judgeFrame s).port = s.port := rfl

/-! ### The updates of `STATUS` -/

@[simp] theorem Status.succeed_rxst (st : Status) : st.succeed.rxst = st.rxst := rfl
@[simp] theorem Status.succeed_stray (st : Status) : st.succeed.stray = st.stray := rfl
@[simp] theorem Status.succeed_errseen (st : Status) : st.succeed.errseen = st.errseen := rfl
@[simp] theorem Status.succeed_cmderr (st : Status) : st.succeed.cmderr = .none := rfl
@[simp] theorem Status.succeed_rxerr (st : Status) : st.succeed.rxerr = st.rxerr := rfl
@[simp] theorem Status.fail_rxst (st : Status) (e : Cause) : (st.fail e).rxst = st.rxst := rfl
@[simp] theorem Status.fail_stray (st : Status) (e : Cause) : (st.fail e).stray = st.stray := rfl
@[simp] theorem Status.fail_errseen (st : Status) (e : Cause) : (st.fail e).errseen = true := rfl
@[simp] theorem Status.fail_cmderr (st : Status) (e : Cause) : (st.fail e).cmderr = e := rfl
@[simp] theorem Status.fail_rxerr (st : Status) (e : Cause) : (st.fail e).rxerr = st.rxerr := rfl
@[simp] theorem Status.judge_stray (st : Status) (e : Cause) : (st.judge e).stray = st.stray := rfl
@[simp] theorem Status.judge_cmderr (st : Status) (e : Cause) : (st.judge e).cmderr = st.cmderr := rfl
@[simp] theorem Status.judge_rxerr (st : Status) (e : Cause) : (st.judge e).rxerr = e := rfl
@[simp] theorem Status.judge_rxst (st : Status) (e : Cause) :
    (st.judge e).rxst = if e = .none then .doneOk else .doneErr := rfl
@[simp] theorem Status.judge_errseen (st : Status) (e : Cause) :
    (st.judge e).errseen = (st.errseen || (e != .none)) := rfl
@[simp] theorem Status.arm_rxst (st : Status) : st.arm.rxst = .armed := rfl
@[simp] theorem Status.arm_stray (st : Status) : st.arm.stray = st.stray := rfl
@[simp] theorem Status.arm_errseen (st : Status) : st.arm.errseen = st.errseen := rfl
@[simp] theorem Status.arm_cmderr (st : Status) : st.arm.cmderr = st.cmderr := rfl
@[simp] theorem Status.arm_rxerr (st : Status) : st.arm.rxerr = .none := rfl
@[simp] theorem Status.markStray_rxst (st : Status) : st.markStray.rxst = st.rxst := rfl
@[simp] theorem Status.markStray_stray (st : Status) : st.markStray.stray = true := rfl
@[simp] theorem Status.markStray_errseen (st : Status) : st.markStray.errseen = st.errseen := rfl
@[simp] theorem Status.markStray_cmderr (st : Status) : st.markStray.cmderr = st.cmderr := rfl
@[simp] theorem Status.markStray_rxerr (st : Status) : st.markStray.rxerr = st.rxerr := rfl
@[simp] theorem Status.clearSticky_rxst (st : Status) : st.clearSticky.rxst = st.rxst := rfl
@[simp] theorem Status.clearSticky_stray (st : Status) : st.clearSticky.stray = false := rfl
@[simp] theorem Status.clearSticky_errseen (st : Status) : st.clearSticky.errseen = false := rfl
@[simp] theorem Status.clearSticky_cmderr (st : Status) : st.clearSticky.cmderr = st.cmderr := rfl
@[simp] theorem Status.clearSticky_rxerr (st : Status) : st.clearSticky.rxerr = st.rxerr := rfl

@[simp] theorem Status.abort_rxst (st : Status) : st.abort.rxst = .idle := by
  unfold Status.abort; split <;> rfl

@[simp] theorem Status.abort_stray (st : Status) : st.abort.stray = st.stray := by
  unfold Status.abort; split <;> rfl

@[simp] theorem Status.abort_cmderr (st : Status) : st.abort.cmderr = st.cmderr := by
  unfold Status.abort; split <;> rfl

/-- All that an abort does to `ERRSEEN` and `RXERR` (R172). -/
theorem Status.abort_cases (st : Status) :
    (st.rxst = .armed ∧ st.abort.errseen = true ∧ st.abort.rxerr = .responseTimeout) ∨
    (st.rxst ≠ .armed ∧ st.abort.errseen = st.errseen ∧ st.abort.rxerr = st.rxerr) := by
  unfold Status.abort; split <;> simp_all

/-! ### issueCommands -/

@[simp] theorem issueCommands_cfg (is : List Instr) (s : State) : (issueCommands is s).cfg = s.cfg := rfl
@[simp] theorem issueCommands_acc (is : List Instr) (s : State) : (issueCommands is s).acc = s.acc := rfl
@[simp] theorem issueCommands_res (is : List Instr) (s : State) : (issueCommands is s).res = s.res := rfl
@[simp] theorem issueCommands_txbuf (is : List Instr) (s : State) : (issueCommands is s).txbuf = s.txbuf := rfl
@[simp] theorem issueCommands_txlen (is : List Instr) (s : State) : (issueCommands is s).txlen = s.txlen := rfl
@[simp] theorem issueCommands_rxexpcode (is : List Instr) (s : State) : (issueCommands is s).rxexpcode = s.rxexpcode := rfl
@[simp] theorem issueCommands_rxexpqty (is : List Instr) (s : State) : (issueCommands is s).rxexpqty = s.rxexpqty := rfl
@[simp] theorem issueCommands_rxcnt (is : List Instr) (s : State) : (issueCommands is s).rxcnt = s.rxcnt := rfl
@[simp] theorem issueCommands_rxacc (is : List Instr) (s : State) : (issueCommands is s).rxacc = s.rxacc := rfl
@[simp] theorem issueCommands_rxbuf (is : List Instr) (s : State) : (issueCommands is s).rxbuf = s.rxbuf := rfl
@[simp] theorem issueCommands_status (is : List Instr) (s : State) : (issueCommands is s).status = s.status := rfl
@[simp] theorem issueCommands_port (is : List Instr) (s : State) : (issueCommands is s).port =
    (wordsOf s.cfg.params is).map (fun w => .present (.word w)) ++ s.port := rfl

/-! ### The reset state -/

@[simp] theorem resetWith_cfg (c : Config) (es : List PortEvent) : (State.resetWith c es).cfg = c := rfl
@[simp] theorem resetWith_port (c : Config) (es : List PortEvent) : (State.resetWith c es).port = es := rfl
@[simp] theorem resetWith_status (c : Config) (es : List PortEvent) : (State.resetWith c es).status = Status.reset := rfl
@[simp] theorem resetWith_txlen (c : Config) (es : List PortEvent) : (State.resetWith c es).txlen = 0#5 := rfl
@[simp] theorem resetWith_rxcnt (c : Config) (es : List PortEvent) : (State.resetWith c es).rxcnt = 0#8 := rfl

end Sys2Proof.Machine
end

