-- ==== Sys2Proof/Laws/Ops.lean ====
section
/-! SUPPORT. For each shared operation one lemma that says all it can do. -/

namespace Sys2Proof.Machine

/-! ### Sums and verdicts -/

@[simp] theorem sum8_nil : sum8 [] = 0x00#8 := rfl
@[simp] theorem sum8_cons (b : Byte) (bs : List Byte) : sum8 (b :: bs) = b + sum8 bs := rfl

/-- All that the frame verdict can be (R169). -/
theorem verdict_cases (sum q c eq ec : Byte) :
    (sum ≠ 0x00#8 ∧ verdict sum q c eq ec = .checksumMismatch) ∨
    (sum = 0x00#8 ∧ q ≠ eq ∧ verdict sum q c eq ec = .quantityMismatch) ∨
    (sum = 0x00#8 ∧ q = eq ∧ c ≠ ec ∧ verdict sum q c eq ec = .unexpectedCode) ∨
    (sum = 0x00#8 ∧ q = eq ∧ c = ec ∧ verdict sum q c eq ec = .none) := by
  unfold verdict
  simp only [bne_iff_ne]
  by_cases h1 : sum = 0x00#8 <;> by_cases h2 : q = eq <;> by_cases h3 : c = ec <;> simp [h1, h2, h3]

/-! ### Configurations -/

/-- What a configuration guarantees of its parameters (R7). -/
theorem Config.facts (c : Config) :
    c.params.reqQty = 3#8 ∧ c.params.thrQty = 23#8 ∧ 1 ≤ c.params.thrFactor ∧
    3 ≤ c.params.rspQty1.toNat ∧ 3 ≤ c.params.rspQty2.toNat ∧ 3 ≤ c.params.rspQty3.toNat ∧
    3 ≤ c.params.rspQtyAck.toNat := by
  have h := c.valid
  simp only [Params.ok, Params.responsesFit, Bool.and_eq_true, List.all_cons, beq_iff_eq, decide_eq_true_eq] at h
  exact ⟨h.1.1.2, h.1.2, h.2, h.1.1.1.2.1.1, h.1.1.1.2.2.1.1, h.1.1.1.2.2.2.1.1, h.1.1.1.2.2.2.2.1.1⟩

/-- The four codes of a configuration are pairwise distinct (R7(a)). -/
theorem Config.codes_distinct (c : Config) :
    c.params.status1Code ≠ c.params.status2Code ∧ c.params.status1Code ≠ c.params.status3Code ∧
    c.params.status1Code ≠ c.params.setValueCode ∧ c.params.status2Code ≠ c.params.status3Code ∧
    c.params.status2Code ≠ c.params.setValueCode ∧ c.params.status3Code ≠ c.params.setValueCode := by
  have h := c.valid
  simp only [Params.ok, Params.codesDistinct, Bool.and_eq_true, bne_iff_ne] at h
  obtain ⟨⟨⟨⟨⟨⟨⟨⟨⟨a, b⟩, c⟩, d⟩, e⟩, f⟩, -⟩, -⟩, -⟩, -⟩ := h
  exact ⟨a, b, c, d, e, f⟩

/-- Every response length is at least 3 and at most the size of `RXBUF` (R7(b), R8). -/
theorem rspQty_fits {c : Config} {code q : Byte} (h : rspQty c.params code = some q) :
    3 ≤ q.toNat ∧ q.toNat ≤ c.params.rxBufBytes := by
  obtain ⟨-, -, -, h1, h2, h3, h4⟩ := Config.facts c
  unfold rspQty at h
  unfold Params.rxBufBytes
  split at h
  · simp only [Option.some.injEq] at h; subst h; omega
  · split at h
    · simp only [Option.some.injEq] at h; subst h; omega
    · split at h
      · simp only [Option.some.injEq] at h; subst h; omega
      · split at h
        · simp only [Option.some.injEq] at h; subst h; omega
        · cases h

/-! ### Buffer accesses -/

/-- The byte at an offset that exists. -/
theorem byteAt_inside {s : State} {sp : Space} {i : Nat} (h : i < s.bufferBytes sp) :
    s.byteAt sp i = (s.buffer sp).read i := if_pos h

/-- A one-byte read inside the buffer. -/
theorem memRead_one {s : State} {sp : Space} {i : Nat} (h : i < s.bufferBytes sp) :
    memRead s sp i 1 = ((s.buffer sp).read i).toNat := by
  simp [memRead, byteAt_inside h]

/-- A two-byte read inside the buffer: little-endian. -/
theorem memRead_two {s : State} {sp : Space} {i : Nat} (h : i + 1 < s.bufferBytes sp) :
    memRead s sp i 2 = ((s.buffer sp).read i).toNat + 256 * ((s.buffer sp).read (i + 1)).toNat := by
  simp [memRead, byteAt_inside h, byteAt_inside (show i < s.bufferBytes sp by omega)]

/-- A read sees the buffers and the configuration and nothing else. -/
theorem memRead_congr {s t : State} (hc : t.cfg = s.cfg) (ht : t.txbuf = s.txbuf) (hr : t.rxbuf = s.rxbuf) (sp : Space) :
    ∀ n i, memRead t sp i n = memRead s sp i n
  | 0, _ => rfl
  | n + 1, i => by
    have h : t.byteAt sp i = s.byteAt sp i := by
      have hb : t.buffer sp = s.buffer sp := by cases sp <;> assumption
      have hn : t.bufferBytes sp = s.bufferBytes sp := by
        cases sp
        · exact congrArg (fun c => c.params.txBufBytes) hc
        · exact congrArg (fun c => c.params.rxBufBytes) hc
      rw [State.byteAt, State.byteAt, hb, hn]
    rw [memRead, memRead, h, memRead_congr hc ht hr sp n (i + 1)]

/-- All that a write into `RXBUF` can do. -/
theorem rxWrite_cases (s : State) (i : Nat) (b : Byte) :
    (i < s.cfg.params.rxBufBytes ∧ rxWrite s i b = { s with rxbuf := s.rxbuf.write i b }) ∨
    (s.cfg.params.rxBufBytes ≤ i ∧ rxWrite s i b = s) := by
  unfold rxWrite State.bufferBytes
  by_cases h : i < s.cfg.params.rxBufBytes
  · exact .inl ⟨h, if_pos h⟩
  · exact .inr ⟨by omega, if_neg h⟩

/-! ### Serializing, arming, taking a byte -/

/-- All that serializing a status request can do (R140). -/
theorem serializeStatus_cases (c : Byte) (s : State) :
    (isStatusCode s.cfg.params c = true ∧
      serializeStatus c s = completeWith 0x0000#16 (loadTx (statusRequestFrame s.cfg.params c) 3#5 s)) ∨
    (isStatusCode s.cfg.params c = false ∧ serializeStatus c s = raiseCause .badCode s) := by
  unfold serializeStatus encodeStatusRequest
  cases isStatusCode s.cfg.params c <;> simp

/-- All that serializing a throttle command can do (R141). -/
theorem serializeThrottle_cases (raw : Half) (s : State) :
    (raw.toNat * s.cfg.params.thrFactor ≤ 0xFFFF ∧ serializeThrottle raw s = completeWith 0x0000#16
      (loadTx (throttleFrame s.cfg.params (BitVec.ofNat 16 (raw.toNat * s.cfg.params.thrFactor))) 23#5 s)) ∨
    (0xFFFF < raw.toNat * s.cfg.params.thrFactor ∧ serializeThrottle raw s = raiseCause .range s) := by
  unfold serializeThrottle encodeThrottleCommand
  by_cases h : raw.toNat * s.cfg.params.thrFactor ≤ 0xFFFF
  · exact .inl ⟨h, by rw [if_pos h]⟩
  · exact .inr ⟨by omega, by rw [if_neg h]⟩

/-- All that arming can do (R168). -/
theorem armFor_cases (c : Byte) (s : State) :
    (rspQty s.cfg.params c = none ∧ armFor c s = raiseCause .badCode s) ∨
    (∃ q, rspQty s.cfg.params c = some q ∧ s.status.rxst = .armed ∧ armFor c s = raiseCause .busy s) ∨
    (∃ q, rspQty s.cfg.params c = some q ∧ s.status.rxst ≠ .armed ∧ armFor c s =
      completeWith (q.setWidth 16) { clearFrame s with rxexpcode := c, rxexpqty := q, status := s.status.arm }) := by
  unfold armFor
  cases rspQty s.cfg.params c with
  | none => exact .inl ⟨rfl, rfl⟩
  | some q =>
    by_cases h : s.status.rxst = .armed
    · exact .inr (.inl ⟨q, rfl, h, if_pos h⟩)
    · exact .inr (.inr ⟨q, rfl, h, if_neg h⟩)

/-- The bytes still expected, where the count has not passed the expected length. -/
theorem remaining_of_le {q cnt : Byte} (h : cnt.toNat ≤ q.toNat) : remaining q cnt = BitVec.ofNat 16 (q.toNat - cnt.toNat) := by
  have hq := q.isLt
  rw [remaining, if_pos h]
  apply BitVec.eq_of_toNat_eq
  rw [BitVec.toNat_setWidth, BitVec.toNat_sub, BitVec.toNat_ofNat]
  omega

/-- None are expected when the frame is complete. -/
@[simp] theorem remaining_self (q : Byte) : remaining q q = 0x0000#16 := by simp [remaining_of_le (le_refl q.toNat)]

/-- The state after one byte is stored, summed and counted, before any verdict (R170). -/
def countedByte (b : Byte) (s : State) : State :=
  { rxWrite s s.rxcnt.toNat b with rxacc := s.rxacc + b, rxcnt := s.rxcnt + 1#8 }

/-- All that counting a byte changes; the buffer only where `RXCNT` is an offset of it. -/
theorem countedByte_eq (b : Byte) (s : State) :
    countedByte b s = { s with
      rxbuf := if s.rxcnt.toNat < s.cfg.params.rxBufBytes then s.rxbuf.write s.rxcnt.toNat b else s.rxbuf
      rxacc := s.rxacc + b, rxcnt := s.rxcnt + 1#8 } := by
  unfold countedByte
  obtain ⟨h, e⟩ | ⟨h, e⟩ := rxWrite_cases s s.rxcnt.toNat b
  · rw [e, if_pos h]
  · rw [e, if_neg (by omega)]

/-- All that counting a byte changes, where `RXCNT` is an offset of the buffer. -/
theorem countedByte_inside {b : Byte} {s : State} (h : s.rxcnt.toNat < s.cfg.params.rxBufBytes) :
    countedByte b s =
      { s with rxbuf := s.rxbuf.write s.rxcnt.toNat b, rxacc := s.rxacc + b, rxcnt := s.rxcnt + 1#8 } := by
  rw [countedByte_eq, if_pos h]

/-- All that one offered byte can do (R170, R171, R205). -/
theorem offerByte_cases (b : Byte) (s : State) :
    (s.status.rxst ≠ .armed ∧ offerByte b s = dropStray s) ∨
    (s.status.rxst = .armed ∧ s.rxcnt + 1#8 ≠ s.rxexpqty ∧
      offerByte b s = completeWith (remaining s.rxexpqty (s.rxcnt + 1#8)) (countedByte b s)) ∨
    (s.status.rxst = .armed ∧ s.rxcnt + 1#8 = s.rxexpqty ∧
      offerByte b s = completeWith 0x0000#16 (judgeFrame (countedByte b s))) := by
  by_cases h : s.status.rxst = .armed
  · have e : offerByte b s = takeByte b s := by unfold offerByte; rw [h]
    have e' : takeByte b s = completeWith
        (remaining (judgeIfComplete (countedByte b s)).rxexpqty (judgeIfComplete (countedByte b s)).rxcnt)
        (judgeIfComplete (countedByte b s)) := by
      unfold takeByte countedByte rxWrite; split <;> rfl
    right
    rw [e, e', countedByte_eq]
    by_cases hq : s.rxcnt + 1#8 = s.rxexpqty
    · exact .inr ⟨h, hq, by simp [judgeIfComplete, hq]⟩
    · exact .inl ⟨h, hq, by simp [judgeIfComplete, hq]⟩
  · refine .inl ⟨h, ?_⟩
    unfold offerByte
    cases hs : s.status.rxst <;> simp_all

/-! ### The verdict function -/

/-- All that the answer on a verdict can be. -/
theorem verdictAnswer_cases (q : Byte) (f : List Byte) (e : Cause) :
    (e = .none ∧ verdictAnswer q f e = .ok (payloadOf q f)) ∨ (e ≠ .none ∧ verdictAnswer q f e = .error e) := by
  cases e <;> simp [verdictAnswer]

/-- What `deframe` answers on its domain (R162). -/
theorem deframe_on_domain {cfg : Config} {c q : Byte} {f : List Byte} (hq : rspQty cfg.params c = some q)
    (hf : f.length = q.toNat) :
    deframe cfg.params c f =
      some (verdictAnswer q f (verdict (sum8 f) (f.getD 0 0x00#8) (f.getD 1 0x00#8) q c)) := by
  have h3 := (rspQty_fits hq).1
  match f, hf with
  | [], hf | [_], hf => simp at hf; omega
  | x :: y :: r, hf => simp only [deframe, hq, if_pos hf]; rfl

/-! ### The port -/

@[simp] theorem takeInput_presentFirst (e : Encoded) (s : State) :
    takeInput (presentFirst e s) = some (.present e, s) := rfl

/-- All that taking an input can do. -/
theorem takeInput_cases (s : State) :
    (s.port = [] ∧ takeInput s = none) ∨
    (∃ e rest, s.port = e :: rest ∧ takeInput s = some (e, { s with port := rest })) := by
  unfold takeInput
  cases h : s.port with
  | nil => exact .inl ⟨rfl, rfl⟩
  | cons e rest => exact .inr ⟨e, rest, rfl, rfl⟩

end Sys2Proof.Machine
end

