-- ==== Sys2Proof/Laws/Exec.lean ====
section
/-! SUPPORT. All that an instruction can do: one inversion lemma for `exec`, so that a statement about every instruction is
a short case analysis. -/

namespace Sys2Proof.Machine

/-- What offering bytes to the deserializer can change (R170, R171): nothing of the serializer, the checksum unit or the
expected frame; sticky flags stay; outside ARMED only `STRAY`, `RES` and `CMDERR`. -/
structure OfferFrame (s t : State) : Prop where
  cfg : t.cfg = s.cfg
  port : t.port = s.port
  acc : t.acc = s.acc
  txbuf : t.txbuf = s.txbuf
  txlen : t.txlen = s.txlen
  rxexpcode : t.rxexpcode = s.rxexpcode
  rxexpqty : t.rxexpqty = s.rxexpqty
  errseen : s.status.errseen = true → t.status.errseen = true
  stray : s.status.stray = true → t.status.stray = true
  held : s.status.rxst ≠ .armed → t.rxbuf = s.rxbuf ∧ t.rxcnt = s.rxcnt ∧ t.rxacc = s.rxacc ∧
    t.status.rxst = s.status.rxst ∧ t.status.rxerr = s.status.rxerr

/-- The effects of offers compose. -/
theorem OfferFrame.trans {s t u : State} (h : OfferFrame s t) (h' : OfferFrame t u) : OfferFrame s u where
  cfg := h'.cfg.trans h.cfg
  port := h'.port.trans h.port
  acc := h'.acc.trans h.acc
  txbuf := h'.txbuf.trans h.txbuf
  txlen := h'.txlen.trans h.txlen
  rxexpcode := h'.rxexpcode.trans h.rxexpcode
  rxexpqty := h'.rxexpqty.trans h.rxexpqty
  errseen := fun e => h'.errseen (h.errseen e)
  stray := fun e => h'.stray (h.stray e)
  held := fun e => by
    obtain ⟨a, b, c, d, f⟩ := h.held e
    obtain ⟨a', b', c', d', f'⟩ := h'.held (d ▸ e)
    exact ⟨a'.trans a, b'.trans b, c'.trans c, d'.trans d, f'.trans f⟩

/-- What one offered byte changes. -/
theorem offerByte_frame (b : Byte) (s : State) : OfferFrame s (offerByte b s) ∧ (offerByte b s).status.cmderr = .none := by
  obtain ⟨ha, e⟩ | ⟨ha, hq, e⟩ | ⟨ha, hq, e⟩ := offerByte_cases b s <;> rw [e]
  · exact ⟨⟨rfl, rfl, rfl, rfl, rfl, rfl, rfl, id, fun _ => rfl, fun _ => ⟨rfl, rfl, rfl, rfl, rfl⟩⟩, rfl⟩
  · rw [countedByte_eq]
    exact ⟨⟨rfl, rfl, rfl, rfl, rfl, rfl, rfl, id, id, fun h => absurd ha h⟩, rfl⟩
  · rw [countedByte_eq]
    refine ⟨⟨rfl, rfl, rfl, rfl, rfl, rfl, rfl, ?_, id, fun h => absurd ha h⟩, rfl⟩
    intro h
    simp [judgeFrame, h]

/-- All that an instruction can do, when it answers a next state. -/
inductive ExecEffect (s : State) : Instr → State → Prop
  | nop : ExecEffect s .nop s
  | statRd : ExecEffect s .statRd { s with res := s.status.toWord }
  | statClr : ExecEffect s .statClr (completeWith 0x0000#16 { s with status := s.status.clearSticky })
  | csumClr : ExecEffect s .csumClr (completeWith 0x0000#16 { s with acc := 0x00#8 })
  | csumAdd (b : Byte) : ExecEffect s (.csumAdd b) (completeWith 0x0000#16 { s with acc := s.acc + b })
  | read (i : Instr) (v : Half) (hr : isRead i = true) (hk : keepsCmdErr i = false) : ExecEffect s i (completeWith v s)
  | failed (i : Instr) (e : Cause) (he : e ∈ possibleCauses i) (hk : keepsCmdErr i = false) :
      ExecEffect s i (raiseCause e s)
  | serialized (i : Instr) (f : List Byte) (n : BitVec 5) (hw : writesTx i = true) :
      ExecEffect s i (completeWith 0x0000#16 (loadTx f n s))
  | armed (c q : Byte) (hq : rspQty s.cfg.params c = some q) (ha : s.status.rxst ≠ .armed) :
      ExecEffect s (.rxArm c) (completeWith (q.setWidth 16)
        { clearFrame s with rxexpcode := c, rxexpqty := q, status := s.status.arm })
  | aborted : ExecEffect s .rxAbort (completeWith 0x0000#16 { clearFrame s with status := s.status.abort })
  | byte (b : Byte) (t : State) (ho : t = offerByte b s) (hf : OfferFrame s t) (hc : t.status.cmderr = .none) :
      ExecEffect s (.rxByte b) t
  | issued (i : Instr) (is : List Instr) (hi : isFrame i = true) : ExecEffect s i (issueCommands is s)

/-- What serializing a status request can do to the state. -/
theorem serializeStatus_effect {i : Instr} {c : Byte} {s t : State} (hw : writesTx i = true) (hk : keepsCmdErr i = false)
    (hb : isStatusCode s.cfg.params c = false → Cause.badCode ∈ possibleCauses i)
    (e : Host.Outcome.next (serializeStatus c s) = (.next t : Host.Outcome State Fault Refusal)) : ExecEffect s i t := by
  cases e
  obtain ⟨-, h⟩ | ⟨h', h⟩ := serializeStatus_cases c s <;> rw [h]
  · exact .serialized i _ _ hw
  · exact .failed i _ (hb h') hk

/-- What serializing a throttle command can do to the state. -/
theorem serializeThrottle_effect {i : Instr} {raw : Half} {s t : State} (hw : writesTx i = true)
    (hk : keepsCmdErr i = false) (hb : Cause.range ∈ possibleCauses i)
    (e : Host.Outcome.next (serializeThrottle raw s) = (.next t : Host.Outcome State Fault Refusal)) : ExecEffect s i t := by
  cases e
  obtain ⟨-, h⟩ | ⟨-, h⟩ := serializeThrottle_cases raw s <;> rw [h]
  · exact .serialized i _ _ hw
  · exact .failed i _ hb hk

/-- All that an instruction can do (R33, R205). -/
theorem exec_effect {i : Instr} {s t : State} (e : exec i s = .next t) : ExecEffect s i t := by
  cases i with
  | nop => cases e; exact .nop
  | csumClr => cases e; exact .csumClr
  | csumAdd b => cases e; exact .csumAdd b
  | csumRd => cases e; exact .read _ _ rfl rfl
  | csumGen => cases e; exact .read _ _ rfl rfl
  | csumChk c => cases e; exact .read _ _ rfl rfl
  | txStatus c => exact serializeStatus_effect rfl rfl (fun _ => by simp [possibleCauses]) e
  | txThr raw => exact serializeThrottle_effect rfl rfl (by simp [possibleCauses]) e
  | txLen => cases e; exact .read _ _ rfl rfl
  | txRd k =>
    simp only [exec, execTxRd] at e
    split at e
    · cases e; exact .failed _ _ (by simp [possibleCauses]) rfl
    · cases e; exact .read _ _ rfl rfl
  | rxArm c =>
    cases e
    obtain ⟨-, h⟩ | ⟨q, -, -, h⟩ | ⟨q, hq, ha, h⟩ := armFor_cases c s <;> rw [h]
    · exact .failed _ _ (by simp [possibleCauses]) rfl
    · exact .failed _ _ (by simp [possibleCauses]) rfl
    · exact .armed c q hq ha
  | rxByte b => cases e; exact .byte b _ rfl (offerByte_frame b s).1 (offerByte_frame b s).2
  | rxAbort => cases e; exact .aborted
  | rxHdr =>
    simp only [exec, execRxHdr] at e
    split at e
    · cases e; exact .read _ _ rfl rfl
    · cases e; exact .failed _ _ (by simp [possibleCauses]) rfl
  | rxRd k =>
    simp only [exec, execRxRd] at e
    split at e
    · cases e; exact .failed _ _ (by simp [possibleCauses]) rfl
    · split at e
      · cases e; exact .read _ _ rfl rfl
      · cases e; exact .failed _ _ (by simp [possibleCauses]) rfl
  | rxRd16 k =>
    simp only [exec, execRxRd16] at e
    split at e
    · cases e; exact .failed _ _ (by simp [possibleCauses]) rfl
    · split at e
      · cases e; exact .read _ _ rfl rfl
      · cases e; exact .failed _ _ (by simp [possibleCauses]) rfl
  | rxQty c =>
    simp only [exec, execRxQty] at e
    split at e <;> cases e
    · exact .read _ _ rfl rfl
    · exact .failed _ _ (by simp [possibleCauses]) rfl
  | statRd => cases e; exact .statRd
  | statClr => cases e; exact .statClr
  | reqStatus1 => cases e; exact .issued _ _ rfl
  | reqStatus2 => cases e; exact .issued _ _ rfl
  | reqStatus3 => cases e; exact .issued _ _ rfl
  | reqSetValue raw => cases e; exact .issued _ _ rfl
  | rspStatus1 payload k => cases e; exact .issued _ _ rfl
  | rspStatus2 payload k => cases e; exact .issued _ _ rfl
  | rspStatus3 payload k => cases e; exact .issued _ _ rfl
  | rspSetValueAck k => cases e; exact .issued _ _ rfl

end Sys2Proof.Machine
end

