-- ==== Sys2Proof/Laws/Feed.lean ====
section
/-! SUPPORT. Several bytes offered to the deserializer one after the other (spec/30_encoding.md R86, RX.FEED): what they do
while the frame is not complete, when the last of them completes it, and when nothing is armed. -/

namespace Sys2Proof.Machine

/-- Bytes offered one after the other in wire order. -/
def offerBytes : List Byte → State → State
  | [], s => s
  | b :: bs, s => offerBytes bs (offerByte b s)

@[simp] theorem offerBytes_nil (s : State) : offerBytes [] s = s := rfl
@[simp] theorem offerBytes_cons (b : Byte) (bs : List Byte) (s : State) :
    offerBytes (b :: bs) s = offerBytes bs (offerByte b s) := rfl

/-- Bytes and then further bytes. -/
theorem offerBytes_append (bs cs : List Byte) (s : State) : offerBytes (bs ++ cs) s = offerBytes cs (offerBytes bs s) := by
  induction bs generalizing s with
  | nil => rfl
  | cons b bs ih => exact ih _

/-- The sum of two byte sequences joined is the sum of their sums. -/
theorem sum8_append (a b : List Byte) : sum8 (a ++ b) = sum8 a + sum8 b := by
  induction a with
  | nil => simp
  | cons x xs ih => simp [ih, add_assoc]

/-- Bytes that nothing is armed for are stray, all of them (R171). -/
theorem offerBytes_stray {s : State} (ha : s.status.rxst ≠ .armed) {bs : List Byte} (hb : bs ≠ []) :
    offerBytes bs s = dropStray s := by
  have one : ∀ (b : Byte) (u : State), u.status.rxst ≠ .armed → offerByte b u = dropStray u := by
    intro b u hu
    obtain ⟨-, h⟩ | ⟨h, -⟩ | ⟨h, -⟩ := offerByte_cases b u
    · exact h
    all_goals exact absurd h hu
  cases bs with
  | nil => exact absurd rfl hb
  | cons b bs =>
    rw [offerBytes_cons, one b s ha]
    clear hb
    induction bs with
    | nil => rfl
    | cons c cs ih =>
      rw [offerBytes_cons, show offerByte c (dropStray s) = dropStray s from one c (dropStray s) ha]
      exact ih

/-- Bytes taken while more are still expected after them (R170): stored in order, summed and counted. -/
theorem offerBytes_taking {bs : List Byte} {s : State} (hb : bs ≠ []) (ha : s.status.rxst = .armed)
    (hn : s.rxcnt.toNat + bs.length < s.rxexpqty.toNat) (hq : s.rxexpqty.toNat ≤ s.cfg.params.rxBufBytes)
    (hm : s.rxbuf.wf = true) :
    ∃ m : Memory, m.wf = true ∧
      (∀ k, m.read k = if s.rxcnt.toNat ≤ k ∧ k < s.rxcnt.toNat + bs.length then bs.getD (k - s.rxcnt.toNat) 0x00#8
        else s.rxbuf.read k) ∧
      offerBytes bs s = { s with
        rxbuf := m, rxacc := s.rxacc + sum8 bs, rxcnt := BitVec.ofNat 8 (s.rxcnt.toNat + bs.length),
        res := BitVec.ofNat 16 (s.rxexpqty.toNat - (s.rxcnt.toNat + bs.length)), status := s.status.succeed } := by
  have hq8 := s.rxexpqty.isLt
  induction bs generalizing s with
  | nil => exact absurd rfl hb
  | cons b bs ih =>
    simp only [List.length_cons] at hn ⊢
    have hc : (s.rxcnt + 1#8).toNat = s.rxcnt.toNat + 1 := by rw [BitVec.toNat_add]; simp; omega
    have hne : s.rxcnt + 1#8 ≠ s.rxexpqty := fun h => by have := congrArg BitVec.toNat h; omega
    have hin : s.rxcnt.toNat < s.cfg.params.rxBufBytes := by omega
    obtain ⟨h, -⟩ | ⟨-, -, h⟩ | ⟨-, h, -⟩ := offerByte_cases b s
    · exact absurd ha h
    · rw [offerBytes_cons, h, countedByte_inside hin]
      have hr : remaining s.rxexpqty (s.rxcnt + 1#8) = BitVec.ofNat 16 (s.rxexpqty.toNat - (s.rxcnt.toNat + 1)) := by
        rw [remaining_of_le (by omega), hc]
      have hcc : s.rxcnt + 1#8 = BitVec.ofNat 8 (s.rxcnt.toNat + 1) := by
        apply BitVec.eq_of_toNat_eq; rw [hc, BitVec.toNat_ofNat]; omega
      cases bs with
      | nil =>
        refine ⟨s.rxbuf.write s.rxcnt.toNat b, Memory.write_wf hm _ _, ?_, ?_⟩
        · intro k
          rw [Memory.read_write hm]
          by_cases hk : k = s.rxcnt.toNat
          · simp [hk]
          · rw [if_neg hk, if_neg (by simp; omega)]
        · rw [hr, hcc]
          simp [completeWith]
      | cons b' bs' =>
        obtain ⟨m, m1, m2, m3⟩ := ih (s := completeWith (remaining s.rxexpqty (s.rxcnt + 1#8)) { s with
          rxbuf := s.rxbuf.write s.rxcnt.toNat b, rxacc := s.rxacc + b, rxcnt := s.rxcnt + 1#8 })
          (by simp) ha (by simp; simp at hn; omega) hq (Memory.write_wf hm _ _) hq8
        refine ⟨m, m1, ?_, ?_⟩
        · intro k
          rw [m2]
          simp only [completeWith_rxcnt, completeWith_rxbuf, hc, Memory.read_write hm]
          by_cases h1 : s.rxcnt.toNat + 1 ≤ k ∧ k < s.rxcnt.toNat + 1 + (b' :: bs').length
          · rw [if_pos h1, if_pos (by omega)]
            obtain ⟨j, rfl⟩ : ∃ j, k = s.rxcnt.toNat + 1 + j := ⟨k - (s.rxcnt.toNat + 1), by omega⟩
            rw [show s.rxcnt.toNat + 1 + j - s.rxcnt.toNat = j + 1 by omega, List.getD_cons_succ,
              show s.rxcnt.toNat + 1 + j - (s.rxcnt.toNat + 1) = j by omega]
          · rw [if_neg h1]
            by_cases hk : k = s.rxcnt.toNat
            · simp [hk]
            · rw [if_neg hk, if_neg (by omega)]
        · refine m3.trans ?_
          simp only [completeWith, hc, sum8_cons, List.length_cons]
          simp only [State.mk.injEq, true_and, and_true]
          refine ⟨?_, ?_, ?_, rfl⟩
          · congr 1; omega
          · congr 1; omega
          · rw [BitVec.add_assoc]
    · exact absurd h hne

/-- Bytes the last of which completes the frame (R169, R170): stored, summed, counted, and judged. -/
theorem offerBytes_completing {bs : List Byte} {s : State} (hb : bs ≠ []) (ha : s.status.rxst = .armed)
    (hn : s.rxcnt.toNat + bs.length = s.rxexpqty.toNat) (hq : s.rxexpqty.toNat ≤ s.cfg.params.rxBufBytes)
    (hm : s.rxbuf.wf = true) :
    ∃ m : Memory, m.wf = true ∧
      (∀ k, m.read k = if s.rxcnt.toNat ≤ k ∧ k < s.rxcnt.toNat + bs.length then bs.getD (k - s.rxcnt.toNat) 0x00#8
        else s.rxbuf.read k) ∧
      offerBytes bs s = { s with
        rxbuf := m, rxacc := s.rxacc + sum8 bs, rxcnt := s.rxexpqty, res := 0x0000#16,
        status := (s.status.judge
          (verdict (s.rxacc + sum8 bs) (m.read 0) (m.read 1) s.rxexpqty s.rxexpcode)).succeed } := by
  have hq8 := s.rxexpqty.isLt
  obtain ⟨pre, b, rfl⟩ : ∃ pre b, bs = pre ++ [b] := ⟨_, _, (List.dropLast_append_getLast hb).symm⟩
  simp only [List.length_append, List.length_singleton] at hn ⊢
  -- the last byte, from a state in which the bytes before it are taken
  have last : ∀ u : State, u.status.rxst = .armed → u.rxexpqty = s.rxexpqty → u.cfg = s.cfg →
      u.rxcnt = BitVec.ofNat 8 (s.rxcnt.toNat + pre.length) →
      offerBytes [b] u = completeWith 0x0000#16 (judgeFrame
        { u with rxbuf := u.rxbuf.write (s.rxcnt.toNat + pre.length) b, rxacc := u.rxacc + b, rxcnt := s.rxexpqty }) := by
    intro u h1 h2 h3 h4
    have h5 : u.rxcnt.toNat = s.rxcnt.toNat + pre.length := by rw [h4, BitVec.toNat_ofNat]; omega
    have h6 : u.rxcnt + 1#8 = u.rxexpqty := by
      apply BitVec.eq_of_toNat_eq; rw [BitVec.toNat_add, h5, h2]; simp; omega
    obtain ⟨h, -⟩ | ⟨-, h, -⟩ | ⟨-, -, h⟩ := offerByte_cases b u
    · exact absurd h1 h
    · exact absurd h6 h
    · rw [offerBytes_cons, h, countedByte_inside (by rw [h3]; omega)]
      simp [h5, h6, h2, judgeFrame, completeWith]
  cases pre with
  | nil =>
    refine ⟨s.rxbuf.write s.rxcnt.toNat b, Memory.write_wf hm _ _, ?_, ?_⟩
    · intro k
      rw [Memory.read_write hm]
      by_cases hk : k = s.rxcnt.toNat
      · simp [hk]
      · rw [if_neg hk, if_neg (by simp; omega)]
    · rw [List.nil_append, last s ha rfl rfl (by simp)]
      simp [completeWith, judgeFrame]
  | cons c cs =>
    obtain ⟨m, m1, m2, m3⟩ := offerBytes_taking (bs := c :: cs) (by simp) ha (by omega) hq hm
    refine ⟨m.write (s.rxcnt.toNat + (c :: cs).length) b, Memory.write_wf m1 _ _, ?_, ?_⟩
    · intro k
      rw [Memory.read_write m1, m2]
      by_cases hk : k = s.rxcnt.toNat + (c :: cs).length
      · rw [if_pos hk, if_pos (by omega), hk, Nat.add_sub_cancel_left]
        simp [List.getD_eq_getElem?_getD]
      · rw [if_neg hk]
        by_cases h1 : s.rxcnt.toNat ≤ k ∧ k < s.rxcnt.toNat + (c :: cs).length
        · rw [if_pos h1, if_pos (by omega), List.getD_append _ _ _ _ (by omega)]
        · rw [if_neg h1, if_neg (by omega)]
    · rw [offerBytes_append, m3]
      refine (last _ ?_ ?_ ?_ ?_).trans ?_
      · exact ha
      · rfl
      · rfl
      · rfl
      simp [completeWith, judgeFrame, sum8_append, Status.judge, Status.succeed, BitVec.add_assoc]

end Sys2Proof.Machine
end

