-- ==== Sys2Proof/Machine/Assembler.lean ====
section
/-! DEFINITION. The textual syntax of commands (spec/30_encoding.md R85) and of pseudo-instructions (R86), one line at a
time. What R85 does not say of spaces, commas and letters is log entry 14. -/

namespace Sys2Proof.Machine

/-- A space or a tab. -/
def isBlankChar (ch : Char) : Bool := ch == ' ' || ch == '\t'

/-- The text without the blanks around it. -/
def trimBlanks (cs : List Char) : List Char :=
  ((cs.dropWhile isBlankChar).reverse.dropWhile isBlankChar).reverse

/-- The text before a `;` comment (R85). -/
def dropComment (cs : List Char) : List Char := cs.takeWhile fun ch => ch != ';'

/-- The value of a digit in a base up to sixteen. -/
def digitValue (base : Nat) (ch : Char) : Option Nat :=
  let v :=
    if '0' ≤ ch ∧ ch ≤ '9' then ch.toNat - '0'.toNat
    else if 'a' ≤ ch ∧ ch ≤ 'f' then ch.toNat - 'a'.toNat + 10
    else if 'A' ≤ ch ∧ ch ≤ 'F' then ch.toNat - 'A'.toNat + 10
    else base
  if v < base then some v else none

/-- The value of a row of digits, with the value `acc` read so far. -/
def digitsValue (base acc : Nat) : List Char → Option Nat
  | [] => some acc
  | ch :: cs =>
    match digitValue base ch with
    | some d => digitsValue base (acc * base + d) cs
    | none => none

/-- A number in decimal or `0x` hexadecimal (R85). -/
def parseNumber (cs : List Char) : Option Nat :=
  match cs with
  | [] => none
  | '0' :: 'x' :: d :: ds => digitsValue 16 0 (d :: ds)
  | d :: ds => digitsValue 10 0 (d :: ds)

/-- A byte operand: a number in 0..255 (R85). -/
def parseByte (cs : List Char) : Option Byte :=
  match parseNumber cs with
  | some n => if n < 256 then some (BitVec.ofNat 8 n) else none
  | none => none

/-- A half operand: a number in 0..65535 (R85). -/
def parseHalf (cs : List Char) : Option Half :=
  match parseNumber cs with
  | some n => if n < 65536 then some (BitVec.ofNat 16 n) else none
  | none => none

/-- The parts between commas, blanks around each dropped; no part for an empty text. -/
def commaParts : List Char → List (List Char)
  | [] => []
  | cs => (cs.splitOn ',').map trimBlanks

/-- The mnemonics of R82 with their opcodes. -/
def mnemonicOps : List (List Char × Byte) :=
  [ ("NOP".toList, 0x00#8), ("CSUM.CLR".toList, 0x01#8), ("CSUM.ADD".toList, 0x02#8), ("CSUM.RD".toList, 0x03#8),
    ("CSUM.GEN".toList, 0x04#8), ("CSUM.CHK".toList, 0x05#8), ("TX.STATUS".toList, 0x10#8), ("TX.THR".toList, 0x11#8),
    ("TX.LEN".toList, 0x12#8), ("TX.RD".toList, 0x13#8), ("RX.ARM".toList, 0x20#8), ("RX.BYTE".toList, 0x21#8),
    ("RX.ABORT".toList, 0x22#8), ("RX.HDR".toList, 0x23#8), ("RX.RD".toList, 0x24#8), ("RX.RD16".toList, 0x25#8),
    ("RX.QTY".toList, 0x26#8), ("STAT.RD".toList, 0x30#8), ("STAT.CLR".toList, 0x31#8) ]

/-- A mnemonic in upper or in lower case (R85). -/
def isMnemonic (name text : List Char) : Bool := text == name || text == name.map Char.toLower

/-- The command that a mnemonic and its operands spell, with an operand of its class (R81, R85). -/
def assembleCommand (name : List Char) (args : List (List Char)) : Option Instr :=
  match mnemonicOps.find? fun r => isMnemonic r.1 name with
  | none => none
  | some (_, op) =>
    match opcodeForm op, args with
    | some (.none i), [] => some i
    | some (.byte f), [a] => (parseByte a).map f
    | some (.half f), [a] => (parseHalf a).map f
    | _, _ => none

/-- Byte operands, at least one. -/
def parseBytes (args : List (List Char)) : Option (List Byte) := if args = [] then none else args.mapM parseByte

/-- The pseudo-instruction that a name and its operands spell (R86). -/
def assemblePseudo (name : List Char) (args : List (List Char)) : Option Pseudo :=
  if isMnemonic "CSUM.OVER".toList name then (parseBytes args).map .csumOver
  else if isMnemonic "RX.FEED".toList name then (parseBytes args).map .rxFeed
  else if isMnemonic "RX.ZEROS".toList name then
    match args with
    | [a] => (parseNumber a).map .rxZeros
    | _ => none
  else if isMnemonic "RX.FRAME".toList name then
    match args with
    | c :: bs => (parseByte c).bind fun c => (parseBytes bs).map fun bs => .rxFrame c bs
    | [] => none
  else if isMnemonic "TX.DUMP".toList name then
    match args with
    | [a] => (parseNumber a).bind fun n => if h : n < 257 then some (.txDump ⟨n, h⟩) else none
    | _ => none
  else none

/-- The commands that a line spells: none for an empty line or a comment, one for a command, several for a
pseudo-instruction; no answer where the line spells nothing. -/
def assembleLine (line : List Char) : Option (List Instr) :=
  let text := trimBlanks (dropComment line)
  let name := text.takeWhile fun ch => !isBlankChar ch
  let args := commaParts (trimBlanks (text.drop name.length))
  if name = [] then some []
  else
    match assembleCommand name args with
    | some i => some [i]
    | none => (assemblePseudo name args).map expandPseudo

end Sys2Proof.Machine
end

