-- ==== Sys2Proof/Tests/Slice0.lean ====
section
/-! SUPPORT. Tests: the smoke test of WellFormed, a hand-written encoding of every constructor, one or two steps of every
instruction with the result of the spec's own example or of hand calculation from its rule, and for every statement with
hypotheses a state and operands that meet them. The codes 0x10 and 0x20 of STATUS_2 and STATUS_3 are arbitrary. -/

namespace Sys2Proof.Tests

open Sys2Proof Sys2Proof.Machine

/-! ### Helpers -/

/-- The document's parameters with the two OPEN codes supplied (R253). -/
def cfg : Config := ⟨Params.document 0x10#8 0x20#8, by decide⟩

/-- The block right after reset. -/
def st : State := State.resetWith cfg []

/-- A deserializer state around the reset state. -/
def rx (rxst : RxState) (code qty cnt acc : Byte) (held : List Byte) : State :=
  { st with
    rxexpcode := code, rxexpqty := qty, rxcnt := cnt, rxacc := acc, rxbuf := Memory.ofBytes held
    status := ⟨rxst, false, false, .none, .none⟩ }

/-- A serializer state around the reset state. -/
def tx (f : List Byte) (n : BitVec 5) : State := { st with txbuf := Memory.ofBytes f, txlen := n }

/-- What a next state shows; nothing for a fault or a refusal. -/
def on {α : Type} (f : State → α) : Host.Outcome State Fault Refusal → Option α
  | .next t => some (f t)
  | .fault _ => none
  | .refused _ => none

/-- `RES` and `STATUS` after an instruction. -/
def shows (i : Instr) (s : State) : Option (Half × Half) := on (fun t => (t.res, t.status.toWord)) (exec i s)

/-- The throttle command of `TX.THR 50` (R141). -/
def thr50 : List Byte := [0x17#8, 0xC9#8, 0xF4#8, 0x01#8] ++ zeros 18 ++ [0x2B#8]

/-- The acknowledgement (R75). -/
def ack : List Byte := [0x03#8, 0xC9#8, 0x34#8]

/-- The acknowledgement held and accepted (R170). -/
def ackHeld : State := rx .doneOk 0xC9#8 0x03#8 0x03#8 0x00#8 ack

/-- A response to STATUS_1 held and accepted, with `C4 09` at frame offsets 8 and 9 (R174, R175): the sum is
0x57 + 0x04 + 0xC4 + 0x09 = 0x128, so its last byte is 0xD8. -/
def rpmHeld : State :=
  rx .doneOk 0x04#8 0x57#8 0x57#8 0x00#8 ([0x57#8, 0x04#8] ++ zeros 6 ++ [0xC4#8, 0x09#8] ++ zeros 76 ++ [0xD8#8])

/-! ### Well-formedness: an ill-formed term for each check -/

theorem test_wf_throttle_refused : WellFormed cfg.params (.reqSetValue 6554#16) = false := by decide
theorem test_wf_throttle_admitted : WellFormed cfg.params (.reqSetValue 6553#16) = true := by decide
theorem test_wf_payload1_refused : WellFormed cfg.params (.rspStatus1 (zeros 83) 0#8) = false := by decide
theorem test_wf_payload2_refused : WellFormed cfg.params (.rspStatus2 (zeros 99) 0#8) = false := by decide
theorem test_wf_payload3_refused : WellFormed cfg.params (.rspStatus3 [] 0#8) = false := by decide
theorem test_wf_payloads_admitted : WellFormed cfg.params (.rspStatus1 (zeros 84) 0#8) = true ∧
    WellFormed cfg.params (.rspStatus2 (zeros 98) 0#8) = true ∧
    WellFormed cfg.params (.rspStatus3 (zeros 100) 0#8) = true := by decide
theorem test_wf_ack_refused :
    WellFormed { cfg.params with rspQtyAck := 4#8 } (.rspSetValueAck 0#8) = false := by decide

/-! ### Configuration (R7) -/

theorem test_configure_equal_codes : Config.configure (Params.document 0x04#8 0x20#8) = none := by decide
theorem test_configure_short_response : Config.configure { cfg.params with rspQty2 := 2#8 } = none := by decide
theorem test_configure_request_length : Config.configure { cfg.params with reqQty := 4#8 } = none := by decide
theorem test_configure_throttle_length : Config.configure { cfg.params with thrQty := 22#8 } = none := by decide
theorem test_configure_factor : Config.configure { cfg.params with thrFactor := 0 } = none := by decide

/-! ### Decoding: words written out from R82 and R87, frames from R72 to R75 -/

theorem test_decode_nop : decodeWord 0x000000#24 = .ok .nop := rfl
theorem test_decode_csumClr : decodeWord 0x010000#24 = .ok .csumClr := rfl
theorem test_decode_csumAdd : decodeWord 0x020017#24 = .ok (.csumAdd 0x17#8) := rfl
theorem test_decode_csumRd : decodeWord 0x030000#24 = .ok .csumRd := rfl
theorem test_decode_csumGen : decodeWord 0x040000#24 = .ok .csumGen := rfl
theorem test_decode_csumChk : decodeWord 0x050034#24 = .ok (.csumChk 0x34#8) := rfl
theorem test_decode_txStatus : decodeWord 0x100004#24 = .ok (.txStatus 0x04#8) := rfl
theorem test_decode_txThr : decodeWord 0x110032#24 = .ok (.txThr 50#16) := rfl
theorem test_decode_txThr_all : decodeWord 0x11FFFE#24 = .ok (.txThr 0xFFFE#16) := rfl
theorem test_decode_txLen : decodeWord 0x120000#24 = .ok .txLen := rfl
theorem test_decode_txRd : decodeWord 0x130002#24 = .ok (.txRd 2#8) := rfl
theorem test_decode_rxArm : decodeWord 0x2000C9#24 = .ok (.rxArm 0xC9#8) := rfl
theorem test_decode_rxByte : decodeWord 0x210003#24 = .ok (.rxByte 0x03#8) := rfl
theorem test_decode_rxAbort : decodeWord 0x220000#24 = .ok .rxAbort := rfl
theorem test_decode_rxHdr : decodeWord 0x230000#24 = .ok .rxHdr := rfl
theorem test_decode_rxRd : decodeWord 0x240006#24 = .ok (.rxRd 6#8) := rfl
theorem test_decode_rxRd16 : decodeWord 0x250006#24 = .ok (.rxRd16 6#8) := rfl
theorem test_decode_rxQty : decodeWord 0x2600C9#24 = .ok (.rxQty 0xC9#8) := rfl
theorem test_decode_statRd : decodeWord 0x300000#24 = .ok .statRd := rfl
theorem test_decode_statClr : decodeWord 0x310000#24 = .ok .statClr := rfl
theorem test_decode_reqStatus1 : decodeFrame cfg.params .request [0x03#8, 0x04#8, 0xF9#8] = .ok .reqStatus1 := rfl
theorem test_decode_reqStatus2 : decodeFrame cfg.params .request [0x03#8, 0x10#8, 0xED#8] = .ok .reqStatus2 := rfl
theorem test_decode_reqStatus3 : decodeFrame cfg.params .request [0x03#8, 0x20#8, 0xDD#8] = .ok .reqStatus3 := rfl
theorem test_decode_reqSetValue : decodeFrame cfg.params .request thr50 = .ok (.reqSetValue 50#16) := rfl
theorem test_decode_rspStatus1 :
    decodeFrame cfg.params .response ([0x57#8, 0x04#8] ++ zeros 84 ++ [0xA5#8]) = .ok (.rspStatus1 (zeros 84) 0xA5#8) := rfl
theorem test_decode_rspStatus2 :
    decodeFrame cfg.params .response ([0x65#8, 0x10#8] ++ zeros 98 ++ [0x8B#8]) = .ok (.rspStatus2 (zeros 98) 0x8B#8) := rfl
theorem test_decode_rspStatus3 :
    decodeFrame cfg.params .response ([0x67#8, 0x20#8] ++ zeros 100 ++ [0x79#8]) = .ok (.rspStatus3 (zeros 100) 0x79#8) := rfl
theorem test_decode_rspSetValueAck : decodeFrame cfg.params .response ack = .ok (.rspSetValueAck 0x34#8) := rfl

/-- R84 and R87: the illegal words, by name; the first and last opcode of each reserved range. -/
theorem test_decode_illegal :
    decodeWord 0x010001#24 = .error (.operandBits 0x01#8 0x0001#16) ∧
    decodeWord 0x020100#24 = .error (.operandBits 0x02#8 0x0100#16) ∧
    decodeWord 0x060000#24 = .error (.reservedOpcode 0x06#8) ∧ decodeWord 0x0F0000#24 = .error (.reservedOpcode 0x0F#8) ∧
    decodeWord 0x140000#24 = .error (.reservedOpcode 0x14#8) ∧ decodeWord 0x1F0000#24 = .error (.reservedOpcode 0x1F#8) ∧
    decodeWord 0x270000#24 = .error (.reservedOpcode 0x27#8) ∧ decodeWord 0x2F0000#24 = .error (.reservedOpcode 0x2F#8) ∧
    decodeWord 0x320000#24 = .error (.reservedOpcode 0x32#8) ∧ decodeWord 0xFFFFFF#24 = .error (.reservedOpcode 0xFF#8) :=
  ⟨rfl, rfl, rfl, rfl, rfl, rfl, rfl, rfl, rfl, rfl⟩

/-- Transfers that are no frame, by name: too short, an unknown code, a wrong quantity, a wrong length, a wrong checksum of
a request. -/
theorem test_decode_no_frame :
    decodeFrame cfg.params .response [0x03#8] = .error .short ∧
    decodeFrame cfg.params .response [0x03#8, 0x77#8, 0x86#8] = .error (.code 0x77#8) ∧
    decodeFrame cfg.params .response [0x04#8, 0xC9#8, 0x33#8] = .error (.quantity 0x04#8) ∧
    decodeFrame cfg.params .response [0x03#8, 0xC9#8] = .error (.length 2) ∧
    decodeFrame cfg.params .request [0x03#8, 0x04#8, 0xF8#8] = .error .body := ⟨rfl, rfl, rfl, rfl, rfl⟩

/-- The opcode table's own numbers: a command's 24 bits, a frame's 16 header bits. -/
theorem test_table_words :
    decodeTableWord 24 0x110032 = some (.txThr 50#16) ∧ decodeTableWord 24 0x060000 = none ∧
    decodeTableWord 16 0x0304 = some .reqStatus1 ∧ decodeTableWord 16 0x17C9 = some (.reqSetValue 0#16) ∧
    decodeTableWord 16 0x03C9 = some (.rspSetValueAck 0x34#8) ∧
    decodeTableWord 16 0x5704 = some (.rspStatus1 (zeros 84) 0xA5#8) := by decide +kernel

/-- The examples of R85, a comment, a pseudo-instruction of R86 and an operand that does not fit its class. -/
theorem test_assemble :
    assembleLine "CSUM.ADD 0x17".toList = some [.csumAdd 0x17#8] ∧ assembleLine "tx.thr 50 ; full".toList = some [.txThr 50#16] ∧
    assembleLine "RX.ARM 0x04".toList = some [.rxArm 0x04#8] ∧ assembleLine "STAT.RD".toList = some [.statRd] ∧
    assembleLine "RX.FRAME 0xC9, 0x03, 0xC9".toList = some [.rxArm 0xC9#8, .rxByte 0x03#8, .rxByte 0xC9#8] ∧
    assembleLine "CSUM.ADD 256".toList = none := by decide

/-! ### One step of every instruction -/

/-- R200: `RES` = 0x00F9 before `NOP` and after it. -/
theorem test_nop : exec .nop { st with res := 0x00F9#16 } = .next { st with res := 0x00F9#16 } := rfl

/-- R110: `ACC` = 0x5B, then `CSUM.CLR`. -/
theorem test_csumClr : on (fun t => (t.acc, t.res)) (exec .csumClr { st with acc := 0x5B#8, res := 7#16 }) =
    some (0x00#8, 0x0000#16) := by decide

/-- R111: 0xE0 + 0xF4 = 0xD4 modulo 256. -/
theorem test_csumAdd : on State.acc (exec (.csumAdd 0xF4#8) { st with acc := 0xE0#8 }) = some 0xD4#8 := by decide

/-- R111: 0xFF + 0x01 gives 0x00. -/
theorem test_csumAdd_wraps : on State.acc (exec (.csumAdd 0x01#8) { st with acc := 0xFF#8 }) = some 0x00#8 := by decide

/-- R112: `ACC` = 0xD5 gives `RES` = 0x00D5. -/
theorem test_csumRd : on State.res (exec .csumRd { st with acc := 0xD5#8 }) = some 0x00D5#16 := by decide

/-- R113: after 0x03 and 0x04 the checksum byte is 0xF9. -/
theorem test_csumGen : on State.res (exec .csumGen { st with acc := 0x07#8 }) = some 0x00F9#16 := by decide

/-- R113: `ACC` = 0x00 gives 0x0000, not 0x0100. -/
theorem test_csumGen_zero : on State.res (exec .csumGen { st with acc := 0x00#8 }) = some 0x0000#16 := by decide

/-- R114: after 0x03 and 0xC9 the byte 0x34 passes. -/
theorem test_csumChk : shows (.csumChk 0x34#8) { st with acc := 0xCC#8 } = some (0x0001#16, 0x0000#16) := by decide

/-- R114: 0x35 does not pass, which is no failure. -/
theorem test_csumChk_mismatch : shows (.csumChk 0x35#8) { st with acc := 0xCC#8 } = some (0x0000#16, 0x0000#16) := by decide

/-- R140: `TX.STATUS 0x04` over a longer frame leaves `03 04 F9`, zeros and `TXLEN` = 3. -/
theorem test_txStatus : on (fun t => (t.txbuf.bytes 0 23, t.txlen)) (exec (.txStatus 0x04#8) (tx thr50 23#5)) =
    some ([0x03#8, 0x04#8, 0xF9#8] ++ zeros 20, 3#5) := by decide

/-- R140: the SET_VALUE code is no status code; the frame stays. -/
theorem test_txStatus_bad : on (fun t => (t.status.toWord, t.txlen)) (exec (.txStatus 0xC9#8) (tx thr50 23#5)) =
    some (0x0068#16, 23#5) := by decide

/-- R141: `TX.THR 50`. -/
theorem test_txThr : on (fun t => (t.txbuf.bytes 0 23, t.txlen)) (exec (.txThr 50#16) st) = some (thr50, 23#5) := by decide

/-- R141: 6554 × 10 does not fit 16 bits. -/
theorem test_txThr_range : shows (.txThr 6554#16) { st with res := 1#16 } = some (0x0000#16, 0x0098#16) := by decide

/-- R142: after `TX.THR 50`, `TX.LEN` gives 0x0017. -/
theorem test_txLen : on State.res (exec .txLen (tx thr50 23#5)) = some 0x0017#16 := by decide

/-- R143: after `TX.STATUS 0x04`, `TX.RD 2` gives 0x00F9. -/
theorem test_txRd : shows (.txRd 2#8) (tx [0x03#8, 0x04#8, 0xF9#8] 3#5) = some (0x00F9#16, 0x0000#16) := by decide

/-- R143 and R201: `TX.RD 3` then fails with RANGE. -/
theorem test_txRd_range : shows (.txRd 3#8) (tx [0x03#8, 0x04#8, 0xF9#8] 3#5) = some (0x0000#16, 0x0098#16) := by decide

/-- R168: `RX.ARM 0x04` from IDLE. -/
theorem test_rxArm : on (fun t => (t.rxexpcode, t.rxexpqty, t.res, t.status.toWord)) (exec (.rxArm 0x04#8) st) =
    some (0x04#8, 0x57#8, 0x0057#16, 0x0001#16) := by decide

/-- R168: BUSY while ARMED. -/
theorem test_rxArm_busy : shows (.rxArm 0x04#8) (rx .armed 0xC9#8 3#8 0#8 0#8 []) = some (0x0000#16, 0x0079#16) := by decide

/-- R170: the third byte of the acknowledgement completes it. -/
theorem test_rxByte : on (fun t => (t.rxbuf.bytes 0 4, t.rxcnt, t.rxacc, t.res, t.status.toWord))
    (exec (.rxByte 0x34#8) (rx .armed 0xC9#8 3#8 2#8 0xCC#8 [0x03#8, 0xC9#8])) =
    some ([0x03#8, 0xC9#8, 0x34#8, 0x00#8], 3#8, 0x00#8, 0x0000#16, 0x0002#16) := by decide

/-- R171: from reset a byte is stray. -/
theorem test_rxByte_stray : shows (.rxByte 0x55#8) st = some (0x0000#16, 0x0004#16) := by decide

/-- R172: an abort while ARMED. -/
theorem test_rxAbort : on (fun t => (t.rxbuf.bytes 0 1, t.rxcnt, t.status.toWord, t.rxexpcode))
    (exec .rxAbort (rx .armed 0x04#8 0x57#8 1#8 0x57#8 [0x57#8])) = some ([0x00#8], 0#8, 0x0208#16, 0x04#8) := by decide

/-- R173: the header of the acknowledgement is 0xC903. -/
theorem test_rxHdr : shows .rxHdr ackHeld = some (0xC903#16, 0x0002#16) := by decide

/-- R173: NOT_READY in IDLE. -/
theorem test_rxHdr_notReady : shows .rxHdr st = some (0x0000#16, 0x0088#16) := by decide

/-- R174: `RX.RD 6` gives 0x00C4. -/
theorem test_rxRd : shows (.rxRd 6#8) rpmHeld = some (0x00C4#16, 0x0002#16) := by decide

/-- R174: the acknowledgement has no payload. -/
theorem test_rxRd_range : shows (.rxRd 0#8) ackHeld = some (0x0000#16, 0x009A#16) := by decide

/-- R175: `RX.RD16 6` gives 0x09C4 = 2500. -/
theorem test_rxRd16 : shows (.rxRd16 6#8) rpmHeld = some (0x09C4#16, 0x0002#16) := by decide

/-- R176: the last legal offset is 82; 83 fails with RANGE. -/
theorem test_rxRd16_last : shows (.rxRd16 82#8) rpmHeld = some (0x0000#16, 0x0002#16) ∧
    shows (.rxRd16 83#8) rpmHeld = some (0x0000#16, 0x009A#16) := by decide

/-- R177: `RX.QTY 0xC9` gives 3. -/
theorem test_rxQty : shows (.rxQty 0xC9#8) st = some (0x0003#16, 0x0000#16) := by decide

/-- R177: a code outside the table. -/
theorem test_rxQty_bad : shows (.rxQty 0x05#8) st = some (0x0000#16, 0x0068#16) := by decide

/-- R201: the status word after a failing `TX.RD 3`. -/
theorem test_statRd : shows .statRd { st with status := ⟨.idle, false, true, .range, .none⟩ } =
    some (0x0098#16, 0x0098#16) := by decide

/-- R202: `STATUS` = 0x010B becomes 0x0103. -/
theorem test_statClr : shows .statClr { st with status := ⟨.doneErr, false, true, .none, .checksumMismatch⟩ } =
    some (0x0000#16, 0x0103#16) := by decide

/-- R203: the reserved opcode 0x06. -/
theorem test_illegal : on (fun t => (t.res, t.status.toWord))
    (step { st with res := 9#16, port := [.present (.word 0x060000#24)] }) = some (0x0000#16, 0x0058#16) := by decide

/-- R72, R73: in place of a request frame the host issues the command that builds it. -/
theorem test_reqStatus1 : on (fun t => (t.txlen, t.port)) (exec .reqStatus1 st) =
    some (0#5, [.present (.word 0x100004#24)]) := by decide
theorem test_reqStatus2 : on State.port (exec .reqStatus2 st) = some [.present (.word 0x100010#24)] := by decide
theorem test_reqStatus3 : on State.port (exec .reqStatus3 st) = some [.present (.word 0x100020#24)] := by decide
theorem test_reqSetValue : on State.port (exec (.reqSetValue 50#16) st) = some [.present (.word 0x110032#24)] := by decide

/-- R14, R75: in place of the acknowledgement the host issues `RX.BYTE` of each byte, before what it has presented already. -/
theorem test_rspSetValueAck : on (fun t => (t.rxcnt, t.port))
    (exec (.rspSetValueAck 0x34#8) { rx .armed 0xC9#8 3#8 0#8 0#8 [] with port := [.reset] }) =
    some (0#8, [.present (.word 0x210003#24), .present (.word 0x2100C9#24), .present (.word 0x210034#24), .reset]) := by decide

/-- R14, R74: 87, 101 and 103 commands, quantity and code first. -/
theorem test_rspStatus1 : on (fun t => (t.port.length, t.port.take 2)) (exec (.rspStatus1 (zeros 84) 0xA5#8) st) =
    some (87, [.present (.word 0x210057#24), .present (.word 0x210004#24)]) := by decide +kernel
theorem test_rspStatus2 : on (fun t => (t.port.length, t.port.take 2)) (exec (.rspStatus2 (zeros 98) 0x8B#8) st) =
    some (101, [.present (.word 0x210065#24), .present (.word 0x210010#24)]) := by decide +kernel
theorem test_rspStatus3 : on (fun t => (t.port.length, t.port.take 2)) (exec (.rspStatus3 (zeros 100) 0x79#8) st) =
    some (103, [.present (.word 0x210067#24), .present (.word 0x210020#24)]) := by decide +kernel

/-- Nothing presented: the block keeps its state (R236). A transfer that is no frame is refused (log entry 7). -/
theorem test_step_idle : step st = .next st := rfl
theorem test_step_no_frame : step { st with port := [.present (.frame .response [0x03#8])] } = .refused .notAFrame := rfl

/-- The host's word is the first instruction after reset. -/
theorem test_withFetchWord : on State.res (step (State.reset.withFetchWord 24 0x2600C9)) = some 0x0003#16 := by decide

/-! ### Witnesses: for every statement with hypotheses, what meets them -/

/-- A configuration whose code for STATUS_2 is 0xFD, the case of R132(c). -/
def cfgFD : Config := ⟨Params.document 0xFD#8 0x20#8, by decide⟩

/-- Open codes that the spec allows (D10). -/
def codes : OpenCodes := ⟨0x10#8, 0x20#8, by decide⟩

theorem witness_Sum8IsSumModulo256 : [0x03#8, 0x04#8].Perm [0x04#8, 0x03#8] := List.Perm.swap _ _ _

theorem witness_ChecksumRoundTrip :
    (∃ c, encodeStatusRequest cfg.params c = some [0x03#8, 0x04#8, 0xF9#8]) ∧
    (∃ raw, encodeThrottleCommand cfg.params raw = some thr50) := ⟨⟨0x04#8, by decide⟩, ⟨50#16, by decide⟩⟩

theorem witness_SingleByteChangeIsDetected_one :
    (0xC9#8 : Byte) ≠ 0xC8#8 ∧ frameSumOk ([0x03#8] ++ 0xC9#8 :: [0x34#8]) = true := by decide

theorem witness_SingleByteChangeIsDetected_escape :
    [0x01#8, 0xFF#8, 0x00#8].length = ack.length ∧ sum8 [0x01#8, 0xFF#8, 0x00#8] = 0x00#8 := by decide

/-- Two changes that escape: the sum of the differences is 0. -/
theorem witness_SingleByteChangeIsDetected_pair :
    ack.length = [0x04#8, 0xC8#8, 0x34#8].length ∧ frameSumOk ack = true ∧ frameSumOk [0x04#8, 0xC8#8, 0x34#8] = true := by
  decide

theorem witness_EncodedFrameProperties_status :
    encodeStatusRequest cfg.params 0x04#8 = some [0x03#8, 0x04#8, 0xF9#8] ∧
    encodeStatusRequest cfgFD.params 0xFD#8 = some [0x03#8, 0xFD#8, 0x00#8] := by decide

theorem witness_EncodedFrameProperties_throttle :
    encodeThrottleCommand cfg.params 50#16 = some thr50 ∧
    encodeThrottleCommand (Params.document codes.status2 codes.status3) 50#16 = some thr50 := by decide

/-- Frames of their codes' lengths: an accepted one and one for each failing test, and outside the domain no answer. -/
theorem witness_DeframeAcceptsExactly :
    rspQty cfg.params 0xC9#8 = some 0x03#8 ∧ ack.length = (0x03#8 : Byte).toNat ∧
    deframe cfg.params 0xC9#8 [0x03#8, 0xC9#8, 0x35#8] = some (.error .checksumMismatch) ∧
    deframe cfg.params 0xC9#8 [0x04#8, 0xC9#8, 0x33#8] = some (.error .quantityMismatch) ∧
    deframe cfg.params 0xC9#8 [0x03#8, 0x04#8, 0xF9#8] = some (.error .unexpectedCode) ∧
    deframe cfg.params 0xC9#8 ack = some (.ok []) ∧ ack = [0x03#8, 0xC9#8] ++ [] ++ [0x34#8] ∧
    deframe cfg.params 0xC9#8 [0x03#8, 0xC9#8] = none ∧ deframe cfg.params 0x05#8 ack = none :=
  ⟨rfl, rfl, rfl, rfl, rfl, rfl, rfl, rfl, rfl⟩

theorem witness_ConfigurationConstraints :
    (Config.configure cfg.params).isSome = true ∧ (Config.configure { cfg.params with thrFactor := 0 }).isSome = false := by
  decide

/-- Every kind of instruction has a well-formed one: a command, and each frame kind, at the bounds of its operands. -/
theorem witness_DecodeOfEncode : [Instr.nop, .txThr 0xFFFF#16, .reqStatus1, .reqStatus2, .reqStatus3, .reqSetValue 6553#16,
    .rspStatus1 (zeros 84) 0xA5#8, .rspStatus2 (zeros 98) 0x8B#8, .rspStatus3 (zeros 100) 0x79#8,
    .rspSetValueAck 0x34#8].all (WellFormed cfg.params) = true := by decide

theorem witness_EncodeOfDecode : decode cfg.params (.word 0x110032#24) = .ok (.txThr 50#16) ∧
    decode cfg.params (.frame .response ack) = .ok (.rspSetValueAck 0x34#8) ∧
    decode cfg.params (.frame .request thr50) = .ok (.reqSetValue 50#16) := ⟨rfl, rfl, rfl⟩

theorem witness_StepRunsDecodedInstruction :
    let s := { st with port := [.present (.word 0x110032#24), .reset] }
    s.port = .present (.word 0x110032#24) :: [.reset] ∧ decode s.cfg.params (.word 0x110032#24) = .ok (.txThr 50#16) :=
  ⟨rfl, rfl⟩

theorem witness_IllegalWordRaises :
    let s := { st with port := [.present (.word 0x060000#24)] }
    s.port = .present (.word 0x060000#24) :: [] ∧ decodeWord 0x060000#24 = .error (.reservedOpcode 0x06#8) := ⟨rfl, rfl⟩

theorem witness_ResetEventSetsResetValues : { ackHeld with port := [.reset] }.port = .reset :: [] := rfl

theorem witness_TxStatusBuildsRequest_built :
    ∀ c ∈ [0x04#8, 0x10#8, 0x20#8], c ∈ [st.cfg.params.status1Code, st.cfg.params.status2Code, st.cfg.params.status3Code] := by
  decide

theorem witness_TxStatusBuildsRequest_refused :
    ∀ c ∈ [0xC9#8, 0x05#8], c ∉ [st.cfg.params.status1Code, st.cfg.params.status2Code, st.cfg.params.status3Code] := by
  decide

/-- The last throttle that fits and the first that does not. -/
theorem witness_TxThrBuildsThrottleCommand :
    (6553#16 : Half).toNat * st.cfg.params.thrFactor ≤ 0xFFFF ∧ 0xFFFF < (6554#16 : Half).toNat * st.cfg.params.thrFactor := by
  decide

/-- The last byte of each frame, and the first offset beyond it. -/
theorem witness_TxRdReadsFrameByte :
    ((2#8 : Byte).toNat < (tx [0x03#8, 0x04#8, 0xF9#8] 3#5).txlen.toNat ∧ (tx [0x03#8, 0x04#8, 0xF9#8] 3#5).txlen.toNat ≤ 23) ∧
    ((22#8 : Byte).toNat < (tx thr50 23#5).txlen.toNat ∧ (tx thr50 23#5).txlen.toNat ≤ 23) ∧
    (tx thr50 23#5).txlen.toNat ≤ (23#8 : Byte).toNat ∧ st.txlen.toNat ≤ (0#8 : Byte).toNat := by decide

theorem witness_SerializedFrameIsReadBack :
    encodeStatusRequest st.cfg.params 0x04#8 = some [0x03#8, 0x04#8, 0xF9#8] ∧
    encodeThrottleCommand st.cfg.params 50#16 = some thr50 := by decide

/-- Armed, busy, a code outside the table; the acknowledgement's code is in it. -/
theorem witness_RxArmArms :
    let p := st.cfg.params
    let table := [(p.status1Code, p.rspQty1), (p.status2Code, p.rspQty2), (p.status3Code, p.rspQty3),
      (p.setValueCode, p.rspQtyAck)]
    ((0x04#8, 0x57#8) ∈ table ∧ (0xC9#8, 0x03#8) ∈ table ∧ st.status.rxst ≠ .armed ∧ ackHeld.status.rxst ≠ .armed) ∧
    (0x04#8 ∈ table.map Prod.fst ∧ (rx .armed 0xC9#8 3#8 0#8 0#8 []).status.rxst = .armed) ∧
    0x05#8 ∉ table.map Prod.fst := by decide

/-- The first byte of a frame and the last byte that does not complete it. -/
theorem witness_RxByteTakesByte :
    ∀ s ∈ [rx .armed 0xC9#8 3#8 0#8 0#8 [], rx .armed 0xC9#8 3#8 1#8 0x03#8 [0x03#8],
      rx .armed 0x20#8 103#8 101#8 0x67#8 [0x67#8]],
      s.status.rxst = .armed ∧ s.rxcnt.toNat + 1 < s.rxexpqty.toNat ∧ s.rxexpqty.toNat ≤ s.cfg.params.rxBufBytes ∧
      s.rxbuf.wf = true := by decide

/-- The byte that completes the shortest and the longest frame. -/
theorem witness_RxByteJudgesFrame :
    ∀ s ∈ [rx .armed 0xC9#8 3#8 2#8 0xCC#8 [0x03#8, 0xC9#8], rx .armed 0x20#8 103#8 102#8 0x67#8 [0x67#8]],
      s.status.rxst = .armed ∧ s.rxcnt.toNat + 1 = s.rxexpqty.toNat ∧ s.rxexpqty.toNat ≤ s.cfg.params.rxBufBytes ∧
      s.rxbuf.wf = true := by decide

theorem witness_RxByteStray : ∀ s ∈ [st, ackHeld, rx .doneErr 0xC9#8 3#8 3#8 1#8 ack], s.status.rxst ≠ .armed := by decide

theorem witness_RxHdrReadsHeader :
    ackHeld.status.rxst = .doneOk ∧ (rx .doneErr 0xC9#8 3#8 3#8 1#8 ack).status.rxst = .doneErr ∧ st.status.rxst = .idle ∧
    (rx .armed 0xC9#8 3#8 0#8 0#8 []).status.rxst = .armed := by decide

/-- The last payload byte, the checksum byte behind it, a frame without payload, and nothing held. -/
theorem witness_RxRdReadsPayloadByte :
    (rpmHeld.status.rxst = .doneOk ∧ (83#8 : Byte).toNat + 3 < rpmHeld.rxexpqty.toNat ∧
      rpmHeld.rxexpqty.toNat ≤ rpmHeld.cfg.params.rxBufBytes) ∧
    rpmHeld.rxexpqty.toNat ≤ (84#8 : Byte).toNat + 3 ∧
    (ackHeld.status.rxst = .doneOk ∧ ackHeld.rxexpqty.toNat ≤ (0#8 : Byte).toNat + 3) ∧ st.status.rxst ≠ .doneOk := by decide

theorem witness_RxRd16ReadsLittleEndian :
    (rpmHeld.status.rxst = .doneOk ∧ (82#8 : Byte).toNat + 5 ≤ rpmHeld.rxexpqty.toNat ∧
      rpmHeld.rxexpqty.toNat ≤ rpmHeld.cfg.params.rxBufBytes) ∧
    rpmHeld.rxexpqty.toNat < (83#8 : Byte).toNat + 5 ∧
    (ackHeld.status.rxst = .doneOk ∧ ackHeld.rxexpqty.toNat < (0#8 : Byte).toNat + 5) ∧ st.status.rxst ≠ .doneOk := by decide

theorem witness_RxQtyLooksUpLength :
    let p := st.cfg.params
    let table := [(p.status1Code, p.rspQty1), (p.status2Code, p.rspQty2), (p.status3Code, p.rspQty3),
      (p.setValueCode, p.rspQtyAck)]
    (0x04#8, 0x57#8) ∈ table ∧ (0x10#8, 0x65#8) ∈ table ∧ (0x20#8, 0x67#8) ∈ table ∧ (0xC9#8, 0x03#8) ∈ table ∧
    0x05#8 ∉ table.map Prod.fst := by decide

/-- An accepted frame and rejected ones, and a payload whose fields exist. -/
theorem witness_CommandPathIsDeframe :
    st.status.rxst ≠ .armed ∧ rspQty st.cfg.params 0xC9#8 = some 0x03#8 ∧ ack.length = (0x03#8 : Byte).toNat ∧
    deframe st.cfg.params 0xC9#8 ack = some (.ok []) ∧
    deframe st.cfg.params 0xC9#8 [0x03#8, 0xC9#8, 0x35#8] = some (.error .checksumMismatch) ∧
    rspQty st.cfg.params 0x04#8 = some 0x57#8 ∧ (heldFrame rpmHeld).length = (0x57#8 : Byte).toNat ∧
    deframe st.cfg.params 0x04#8 (heldFrame rpmHeld) = some (.ok (zeros 6 ++ [0xC4#8, 0x09#8] ++ zeros 76)) ∧
    (zeros 6 ++ [0xC4#8, 0x09#8] ++ zeros 76)[6]? = some 0xC4#8 ∧
    le16 (zeros 6 ++ [0xC4#8, 0x09#8] ++ zeros 76) 6 = some 0x09C4#16 :=
  ⟨by decide, rfl, rfl, rfl, rfl, rfl, by decide, by decide +kernel, rfl, by decide⟩

theorem witness_RequestStatusFramesAreBuilt :
    ∀ p ∈ [(Instr.reqStatus1, 0x04#8), (.reqStatus2, 0x10#8), (.reqStatus3, 0x20#8)],
      p ∈ [(Instr.reqStatus1, st.cfg.params.status1Code), (.reqStatus2, st.cfg.params.status2Code),
        (.reqStatus3, st.cfg.params.status3Code)] := by decide

theorem witness_RequestSetValueFrameIsBuilt :
    WellFormed st.cfg.params (.reqSetValue 6553#16) = true ∧
    encode st.cfg.params (.reqSetValue 50#16) = .frame .request thr50 ∧
    WellFormed st.cfg.params (.reqSetValue 6554#16) = false := by decide

/-- An accepted acknowledgement, a rejected one, and a whole response to STATUS_1. -/
theorem witness_ResponseFrameIsTakenWhenArmed :
    ∀ x ∈ [(rx .armed 0xC9#8 3#8 0#8 0#8 [], Instr.rspSetValueAck 0x34#8, ack),
      (rx .armed 0xC9#8 3#8 0#8 0#8 [], .rspSetValueAck 0x35#8, [0x03#8, 0xC9#8, 0x35#8]),
      (rx .armed 0x04#8 0x57#8 0#8 0#8 [], .rspStatus1 (zeros 84) 0xA5#8, [0x57#8, 0x04#8] ++ zeros 84 ++ [0xA5#8])],
      isResponse x.2.1 = true ∧ WellFormed x.1.cfg.params x.2.1 = true ∧
      encode x.1.cfg.params x.2.1 = .frame .response x.2.2 ∧ x.1.status.rxst = .armed ∧
      x.2.2.head? = some x.1.rxexpqty ∧ x.2.2[1]? = some x.1.rxexpcode ∧ x.1.rxcnt = 0#8 ∧ x.1.rxacc = 0x00#8 ∧
      x.1.rxbuf = Memory.empty := by decide +kernel

theorem witness_ResponseFrameIsStrayWhenNotArmed :
    isResponse (.rspSetValueAck 0x34#8) = true ∧ isResponse (.rspStatus1 (zeros 84) 0xA5#8) = true ∧
    isResponse (.rspStatus2 (zeros 98) 0x8B#8) = true ∧ isResponse (.rspStatus3 (zeros 100) 0x79#8) = true ∧
    encode st.cfg.params (.rspSetValueAck 0x34#8) = .frame .response ack ∧
    st.status.rxst ≠ .armed := by decide

theorem witness_ResponseFrameIsItsByteCommands :
    isResponse (.rspSetValueAck 0x34#8) = true ∧ encode st.cfg.params (.rspSetValueAck 0x34#8) = .frame .response ack := by
  decide

/-- A command that fails, from a state in which it does. -/
theorem witness_FailingCommandIsPrecise :
    (∃ t, exec .rxHdr st = .next t ∧ t.status.cmderr ≠ .none) ∧ keepsCmdErr .rxHdr = false :=
  ⟨⟨_, rfl, by decide⟩, rfl⟩

theorem witness_CausesOfEachCommand :
    (∃ t, exec .statRd st = .next t) ∧ keepsCmdErr .statRd = true ∧ (∃ t, exec .rxHdr st = .next t) ∧
    keepsCmdErr .rxHdr = false := ⟨⟨_, rfl⟩, rfl, ⟨_, rfl⟩, rfl⟩

/-- An instruction that answers a next state and writes none of the registers named. -/
theorem witness_RegistersHaveOnlyTheirWriters :
    (∃ t, exec .statRd ackHeld = .next t) ∧ writesAcc .statRd = false ∧ writesTx .statRd = false ∧
    writesExpected .statRd = false ∧ writesRx .statRd = false ∧ writesStray .statRd = false ∧ keepsCmdErr .statRd = true ∧
    (∃ t, exec .nop ackHeld = .next t) ∧ (∃ t, exec .txLen ackHeld = .next t ∧ t.status.cmderr = .none) ∧
    writesErrSeen .txLen = false ∧ isFrame .txLen = false ∧ isFrame .reqStatus1 = true ∧ (∃ t, exec .reqStatus1 st = .next t) :=
  ⟨⟨_, rfl⟩, rfl, rfl, rfl, rfl, rfl, rfl, ⟨_, rfl⟩, ⟨_, rfl, rfl⟩, rfl, rfl, rfl, ⟨_, rfl⟩⟩

theorem witness_AccInvisibleOutsideChecksumUnit :
    usesAcc (.rxByte 0x34#8) = false ∧ ∃ t, exec (.rxByte 0x34#8) (rx .armed 0xC9#8 3#8 2#8 0xCC#8 [0x03#8, 0xC9#8]) = .next t :=
  ⟨rfl, ⟨_, rfl⟩⟩

theorem witness_StickyFlagsStaySet :
    let s := { st with status := ⟨.idle, true, true, .none, .none⟩ }
    (∃ t, exec .nop s = .next t) ∧ Instr.nop ≠ .statClr ∧ s.status.errseen = true ∧ s.status.stray = true :=
  ⟨⟨_, rfl⟩, by decide, rfl, rfl⟩

theorem witness_HeldFrameStaysUntilArmOrAbort :
    ackHeld.status.rxst = .doneOk ∧ (rx .doneErr 0xC9#8 3#8 3#8 1#8 ack).status.rxst = .doneErr ∧
    (∀ c, Instr.rxByte 0x55#8 ≠ .rxArm c) ∧ Instr.rxByte 0x55#8 ≠ .rxAbort ∧ ∃ t, exec (.rxByte 0x55#8) ackHeld = .next t :=
  ⟨rfl, rfl, fun _ h => (by cases h), by decide, ⟨_, rfl⟩⟩

/-- The three ways out of ARMED. -/
theorem witness_ArmedIsLeftOnlyByThese :
    ∀ e ∈ [PortEvent.reset, .present (.word 0x220000#24), .present (.word 0x210034#24)],
      on (fun t => t.status.rxst != .armed)
        (step { rx .armed 0xC9#8 3#8 2#8 0xCC#8 [0x03#8, 0xC9#8] with port := [e] }) = some true := by decide

theorem witness_ReadsAreIdempotent :
    isRead (.rxRd 6#8) = true ∧ (∃ t, exec (.rxRd 6#8) rpmHeld = .next t) ∧ isRead (.txRd 3#8) = true ∧
    ∃ t, exec (.txRd 3#8) st = .next t := ⟨rfl, ⟨_, rfl⟩, rfl, ⟨_, rfl⟩⟩

/-- An acknowledgement all but taken, its last byte being presented. -/
def almost : State :=
  { rx .armed 0xC9#8 3#8 2#8 0xCC#8 [0x03#8, 0xC9#8] with port := [.present (.word 0x210034#24)] }

/-- The invariants hold in that state, which is no reset state. -/
theorem witness_Inv : Inv almost where
  idleEmpty := by decide
  armedShort := by decide
  doneFull := by decide
  sumKept := by decide
  rxTailZero := by
    intro k hk
    change (Memory.mk [(0, 0x03#8), (1, 0xC9#8)]).read k = 0x00#8
    have : 2 ≤ k := hk
    simp [Memory.read, lookupCell, unlistedByte, show ¬ 0 = k by omega, show ¬ 1 = k by omega]
  txLengths := by decide
  txTailZero := fun _ _ => rfl
  okIff := by decide
  reservedZero := by decide
  cmdCauses := by decide
  frameCauses := by decide
  expected := by decide
  armedClean := by decide
  rxForm := by decide
  txForm := by decide

/-- From it the step completes the frame: all the premises of the invariant statements, and what the step does. -/
theorem witness_StepKeepsInvariants : Inv almost ∧ ∃ t, step almost = .next t ∧ t.status.rxst = .doneOk :=
  ⟨witness_Inv, ⟨_, rfl, by decide⟩⟩

/-- A word and a frame that the step takes, in states outside the invariants too, and a transfer that is no frame. -/
theorem witness_StepTotalExceptOnNonFrames :
    (∀ dir bs rest, almost.port = .present (.frame dir bs) :: rest → ∃ i, decodeFrame almost.cfg.params dir bs = .ok i) ∧
    decodeFrame st.cfg.params .response ack = .ok (.rspSetValueAck 0x34#8) ∧
    { st with port := [.present (.frame .response [0x03#8])] }.port = .present (.frame .response [0x03#8]) :: [] ∧
    decodeFrame st.cfg.params .response [0x03#8] = .error .short :=
  ⟨fun _ _ _ h => (by cases h), rfl, rfl, rfl⟩

/-- R205 outside the invariants: ARMED with 103 bytes taken, the byte is summed and counted and no offset is written. -/
theorem test_rxByte_beyond : on (fun t => (t.rxbuf, t.rxacc, t.rxcnt, t.status.toWord))
    (exec (.rxByte 0x34#8) (rx .armed 0xC9#8 3#8 103#8 1#8 [])) = some (Memory.empty, 0x35#8, 104#8, 0x0001#16) := by decide

/-- R205 outside the invariants: the byte at an offset that does not exist is a free value, and the command completes. -/
theorem test_rxRd_beyond : exec (.rxRd 101#8) (rx .doneOk 0xC9#8 0xFF#8 0xFF#8 0#8 []) =
    .next (completeWith (BitVec.ofNat 16 ((Config.absentRxByte 103).toNat + 256 * 0))
      (rx .doneOk 0xC9#8 0xFF#8 0xFF#8 0#8 [])) := rfl

theorem witness_HeldVerdictIsDeframes : Inv almost ∧ HeldVerdict almost ∧ ∃ t, step almost = .next t :=
  ⟨witness_Inv, ⟨fun h => absurd h (by decide), fun h => absurd h (by decide)⟩, ⟨_, rfl⟩⟩

/-- Verdicts held in states with an accepted and with a rejected frame. -/
theorem witness_HeldVerdict : HeldVerdict ackHeld ∧
    HeldVerdict { rx .doneErr 0xC9#8 3#8 3#8 1#8 [0x03#8, 0xC9#8, 0x35#8] with
      status := ⟨.doneErr, false, true, .none, .checksumMismatch⟩ } :=
  ⟨⟨fun _ => rfl, fun h => absurd h (by decide)⟩, ⟨fun h => absurd h (by decide), fun _ => rfl⟩⟩

/-- R86: `TX.DUMP 3` is `TX.RD 0`, `TX.RD 1`, `TX.RD 2`. -/
theorem test_tx_dump_expands : expandPseudo (.txDump 3) = [.txRd 0x00#8, .txRd 0x01#8, .txRd 0x02#8] := by decide

end Sys2Proof.Tests
end

section
/-! PROOFS of the family 00_scope.md: the configuration and the document's parameters (spec/00_scope.md R6 to R8). -/

namespace Sys2Proof.Machine

/-! ### The constraints of R7, each as a proposition -/

/-- R7(a). -/
theorem codesDistinct_iff_pairwise (p : Params) :
    p.codesDistinct = true ↔
      [p.status1Code, p.status2Code, p.status3Code, p.setValueCode].Pairwise (· ≠ ·) := by
  simp [Params.codesDistinct, and_assoc]

/-- R7(b). -/
theorem responsesFit_iff (p : Params) :
    p.responsesFit = true ↔
      ∀ q ∈ [p.rspQty1, p.rspQty2, p.rspQty3, p.rspQtyAck], 3 ≤ q.toNat ∧ q.toNat ≤ p.rxBufBytes := by
  simp only [Params.responsesFit, List.all_eq_true, Bool.and_eq_true, decide_eq_true_eq]

/-- The check made at configuration is the conjunction of R7(a) to R7(d). -/
theorem paramsOk_iff (p : Params) :
    p.ok = true ↔
      [p.status1Code, p.status2Code, p.status3Code, p.setValueCode].Pairwise (· ≠ ·) ∧
      (∀ q ∈ [p.rspQty1, p.rspQty2, p.rspQty3, p.rspQtyAck], 3 ≤ q.toNat ∧ q.toNat ≤ p.rxBufBytes) ∧
      p.reqQty = 3#8 ∧ p.thrQty = 23#8 ∧ 1 ≤ p.thrFactor := by
  rw [← codesDistinct_iff_pairwise, ← responsesFit_iff]
  simp only [Params.ok, Bool.and_eq_true, beq_iff_eq, decide_eq_true_eq, and_assoc]

/-- Configuring refuses exactly the parameters that fail the check. -/
theorem configure_isSome_iff (p : Params) : (Config.configure p).isSome = true ↔ p.ok = true := by
  unfold Config.configure
  split <;> simp [*]

/-- Settles O8: `configure` succeeds on the parameters that pass the check, and the check is R7(a) to R7(d). -/
theorem configurationConstraints : Obligations.ConfigurationConstraints := fun p =>
  (configure_isSome_iff p).trans (paramsOk_iff p)

/-! ### The response length of each code

The table of R160 is searched in order, so each code finds its own row only because the codes are distinct (R7(a)). -/

@[simp] theorem rspQty_status1Code (c : Config) :
    rspQty c.params c.params.status1Code = some c.params.rspQty1 := by
  simp [rspQty]

@[simp] theorem rspQty_setValueCode (c : Config) :
    rspQty c.params c.params.setValueCode = some c.params.rspQtyAck := by
  obtain ⟨-, -, h1v, -, -, -⟩ := Config.codes_distinct c
  simp [rspQty, h1v.symm]

@[simp] theorem rspQty_status2Code (c : Config) :
    rspQty c.params c.params.status2Code = some c.params.rspQty2 := by
  obtain ⟨h12, -, -, -, h2v, -⟩ := Config.codes_distinct c
  simp [rspQty, h12.symm, h2v]

@[simp] theorem rspQty_status3Code (c : Config) :
    rspQty c.params c.params.status3Code = some c.params.rspQty3 := by
  obtain ⟨-, h13, -, h23, -, h3v⟩ := Config.codes_distinct c
  simp [rspQty, h13.symm, h23.symm, h3v]

/-- R161 on a code of the table. -/
theorem plen_of_rspQty {p : Params} {c q : Byte} (h : rspQty p c = some q) : plen p c = some (q.toNat - 3) := by
  simp [plen, h]

/-! ### The document's values -/

/-- R8: the longest response of the document is that of STATUS_3. -/
theorem document_rxBufBytes (status2 status3 : Byte) : (Params.document status2 status3).rxBufBytes = 103 := rfl

/-- Settles O9: the values are those of `Params.document`; the payload lengths follow from the table's row of each code, and
that the OPEN codes differ from the others is what every configuration guarantees. -/
theorem documentParameters : Obligations.DocumentParameters := by
  unfold Obligations.DocumentParameters
  intro p
  obtain ⟨hdistinct, -⟩ := (paramsOk_iff p).1 State.reset.cfg.valid
  exact ⟨rfl, rfl, rfl, rfl, rfl, rfl, rfl, rfl, rfl, rfl, document_rxBufBytes _ _,
    plen_of_rspQty (rspQty_status1Code State.reset.cfg), plen_of_rspQty (rspQty_status2Code State.reset.cfg),
    plen_of_rspQty (rspQty_status3Code State.reset.cfg), plen_of_rspQty (rspQty_setValueCode State.reset.cfg),
    hdistinct⟩

end Sys2Proof.Machine
end

section
/-! PROOFS of the family 10_state.md: the reset value of every piece of state (spec/10_state.md R34).

The facts are about `State.resetWith`, under every configuration and with every queue of inputs still to come, so that they
speak of the state after a reset event (R250) as well; `State.reset` is one case. -/

namespace Sys2Proof.Machine

/-! ### The fields of the reset state -/

@[simp] theorem resetWith_acc (c : Config) (es : List PortEvent) : (State.resetWith c es).acc = 0x00#8 := rfl
@[simp] theorem resetWith_res (c : Config) (es : List PortEvent) : (State.resetWith c es).res = 0x0000#16 := rfl
@[simp] theorem resetWith_txbuf (c : Config) (es : List PortEvent) : (State.resetWith c es).txbuf = Memory.empty := rfl
@[simp] theorem resetWith_rxexpcode (c : Config) (es : List PortEvent) : (State.resetWith c es).rxexpcode = 0x00#8 := rfl
@[simp] theorem resetWith_rxexpqty (c : Config) (es : List PortEvent) : (State.resetWith c es).rxexpqty = 0x00#8 := rfl
@[simp] theorem resetWith_rxacc (c : Config) (es : List PortEvent) : (State.resetWith c es).rxacc = 0x00#8 := rfl
@[simp] theorem resetWith_rxbuf (c : Config) (es : List PortEvent) : (State.resetWith c es).rxbuf = Memory.empty := rfl

/-! ### What is read of the reset state -/

/-- R34 read through the layout of R26: IDLE and NONE have code 0. -/
@[simp] theorem Status.reset_toWord : Status.reset.toWord = 0x0000#16 := by decide

/-- R34, `TXBUF`: an offset that the cleared buffer does not list reads its reset value. -/
theorem resetWith_txbuf_read (c : Config) (es : List PortEvent) (k : Nat) :
    (State.resetWith c es).txbuf.read k = 0x00#8 := by
  rw [resetWith_txbuf, Memory.empty_read]

/-- R34, `RXBUF`, likewise. -/
theorem resetWith_rxbuf_read (c : Config) (es : List PortEvent) (k : Nat) :
    (State.resetWith c es).rxbuf.read k = 0x00#8 := by
  rw [resetWith_rxbuf, Memory.empty_read]

/-- R34, `STATUS`. -/
theorem resetWith_status_toWord (c : Config) (es : List PortEvent) :
    (State.resetWith c es).status.toWord = 0x0000#16 := by
  rw [resetWith_status, Status.reset_toWord]

/-- Settles O18: `State.reset` is the reset state of the default configuration with nothing presented, and each row of R34's
table is the value of its field. -/
theorem resetStateValues : Obligations.ResetStateValues := by
  unfold Obligations.ResetStateValues State.reset
  exact ⟨resetWith_acc _ _, resetWith_res _ _, resetWith_txbuf_read _ _, resetWith_txlen _ _, resetWith_rxexpcode _ _,
    resetWith_rxexpqty _ _, resetWith_rxcnt _ _, resetWith_rxacc _ _, resetWith_rxbuf_read _ _, resetWith_status _ _,
    resetWith_status_toWord _ _⟩

end Sys2Proof.Machine
end

section
/-! PROOFS of the family 30_encoding.md: what a command word decodes to (spec/30_encoding.md R80 to R87).

The rules below are `decode(w)` of R83 on a word put together from its opcode and its operand, one for each operand class of
R81 and each way a word is illegal. -/

namespace Sys2Proof.Machine

/-! ### Decoding by operand class -/

section Classes

variable {op : Byte} {arg : Half} {i : Instr} {fb : Byte → Instr} {fh : Half → Instr}

/-- R81, class none. -/
theorem decodeWord_none (hop : opcodeForm op = some (.none i)) : decodeWord (cmdWord op 0#16) = .ok i := by
  simp [decodeWord, hop]

/-- R81, class byte. -/
theorem decodeWord_byte (hop : opcodeForm op = some (.byte fb)) (b : Byte) :
    decodeWord (cmdWord op (byteArg b)) = .ok (fb b) := by
  simp [decodeWord, hop]

/-- R81, class half: no operand is illegal. -/
theorem decodeWord_half (hop : opcodeForm op = some (.half fh)) (arg : Half) :
    decodeWord (cmdWord op arg) = .ok (fh arg) := by
  simp [decodeWord, hop]

/-- R84: class none forbids every operand bit. -/
theorem decodeWord_none_operandBits (hop : opcodeForm op = some (.none i)) (harg : arg ≠ 0#16) :
    decodeWord (cmdWord op arg) = .error (.operandBits op arg) := by
  simp [decodeWord, hop, harg]

/-- R84: class byte forbids the operand's high half. -/
theorem decodeWord_byte_operandBits (hop : opcodeForm op = some (.byte fb)) (harg : arg.extractLsb' 8 8 ≠ 0#8) :
    decodeWord (cmdWord op arg) = .error (.operandBits op arg) := by
  simp [decodeWord, hop, harg]

/-- R84: a reserved opcode is illegal whatever the operand. -/
theorem decodeWord_reserved (hop : opcodeForm op = none) (arg : Half) :
    decodeWord (cmdWord op arg) = .error (.reservedOpcode op) := by
  simp [decodeWord, hop]

end Classes

/-! ### The examples of R87 -/

/-- Settles O13: each example is the word of its opcode and operand (R80), and decodes by the rule of that opcode's class. -/
theorem sampleWordsDecode : Obligations.SampleWordsDecode :=
  ⟨decodeWord_byte (op := 0x10#8) rfl 0x04#8, decodeWord_half (op := 0x11#8) rfl 50#16,
    decodeWord_byte (op := 0x20#8) rfl 0xC9#8, decodeWord_byte (op := 0x21#8) rfl 0x03#8,
    decodeWord_none (op := 0x30#8) rfl, decodeWord_byte (op := 0x02#8) rfl 0x17#8,
    decodeWord_none_operandBits (op := 0x01#8) (arg := 0x0001#16) rfl (by decide),
    decodeWord_byte_operandBits (op := 0x02#8) (arg := 0x0100#16) rfl (by decide),
    decodeWord_reserved (op := 0x06#8) rfl 0x0000#16, decodeWord_reserved (op := 0xFF#8) rfl 0xFFFF#16⟩

end Sys2Proof.Machine
end

section
/-! PROOFS of the family 40_checksum.md: the checksum functions (spec/40_checksum.md R100 to R106) and the commands of the
checksum unit (R110 to R114).

The idea throughout: bytes modulo 256 are a commutative group, in which `sum8` is the sum of a list and `ck` its negation.
What the rules say of numbers modulo 256 is carried over by the value of a sum (`sum8_toNat`) and by
`add_eq_zero_iff_toNat`. -/

namespace Sys2Proof.Machine

/-! ### Bytes as numbers -/

/-- A byte completes another to 0 in the sense of R101: the sum of the two numbers is 0 modulo 256. -/
theorem add_eq_zero_iff_toNat (a b : Byte) : a + b = 0x00#8 ↔ (a.toNat + b.toNat) % 256 = 0 := by
  rw [← BitVec.toNat_inj, BitVec.toNat_add]
  rfl

/-! ### `sum8` -/

/-- R100 in the group of bytes. -/
theorem sum8_eq_sum (bs : List Byte) : sum8 bs = bs.sum := by
  induction bs with
  | nil => rfl
  | cons b bs ih => rw [sum8_cons, List.sum_cons, ih]

/-- R100: every byte counts as an unsigned number. -/
theorem sum8_toNat (bs : List Byte) : (sum8 bs).toNat = (bs.map BitVec.toNat).sum % 256 := by
  induction bs with
  | nil => rfl
  | cons b bs ih => rw [sum8_cons, BitVec.toNat_add, ih, List.map_cons, List.sum_cons, Nat.add_mod_mod]

theorem sum8_eq_zero_iff (bs : List Byte) : sum8 bs = 0x00#8 ↔ (bs.map BitVec.toNat).sum % 256 = 0 := by
  rw [← BitVec.toNat_inj, sum8_toNat]
  rfl

@[simp] theorem sum8_singleton (b : Byte) : sum8 [b] = b := by simp

/-- R106: the running checksum, from any value already accumulated. -/
theorem foldl_add_eq_add_sum8 (bs : List Byte) (acc : Byte) :
    bs.foldl (fun a b => a + b) acc = acc + sum8 bs := by
  induction bs generalizing acc with
  | nil => simp
  | cons b bs ih => rw [List.foldl_cons, ih, sum8_cons, add_assoc]

/-- R106: the order of the bytes does not matter. -/
theorem sum8_perm {bs cs : List Byte} (h : bs.Perm cs) : sum8 bs = sum8 cs := by
  rw [sum8_eq_sum, sum8_eq_sum, h.sum_eq]

@[simp] theorem sum8_zeros (n : Nat) : sum8 (zeros n) = 0x00#8 := by
  rw [sum8_eq_sum, zeros, List.sum_replicate]
  exact smul_zero n

/-- A change of equal length adds the sum of its differences. -/
theorem sum8_zipWith_add : ∀ {f changes : List Byte}, changes.length = f.length →
    sum8 (List.zipWith (fun b d => b + d) f changes) = sum8 f + sum8 changes
  | [], [], _ => rfl
  | b :: f, d :: changes, h => by
    rw [List.zipWith_cons_cons, sum8_cons, sum8_cons, sum8_cons, sum8_zipWith_add (Nat.succ.inj h), add_add_add_comm]

/-- The differences between two sequences of equal length sum to the difference of their sums. -/
theorem sum8_zipWith_sub : ∀ {f g : List Byte}, f.length = g.length →
    sum8 (List.zipWith (fun b c => c - b) f g) = sum8 g - sum8 f
  | [], [], _ => rfl
  | b :: f, c :: g, h => by
    rw [List.zipWith_cons_cons, sum8_cons, sum8_cons, sum8_cons, sum8_zipWith_sub (Nat.succ.inj h), add_sub_add_comm]

/-- R105: only the value of the byte that stands between the same bytes decides the sum. -/
theorem sum8_replace_inj {pre post : List Byte} {b b' : Byte} :
    sum8 (pre ++ b :: post) = sum8 (pre ++ b' :: post) ↔ b = b' := by
  rw [sum8_append, sum8_append, sum8_cons, sum8_cons, add_right_inj, add_left_inj]

/-- Settles O1: numbers, the group of bytes and the running sum give one value. -/
theorem sum8IsSumModulo256 : Obligations.Sum8IsSumModulo256 := by
  refine ⟨sum8_nil, sum8_toNat, fun bs b => ?append, fun bs => ?running, fun _ _ => sum8_perm⟩
  case append => rw [sum8_append, sum8_singleton, BitVec.toNat_add]
  case running => rw [foldl_add_eq_add_sum8, BitVec.zero_add]

/-! ### The checksum byte and the whole-frame test -/

/-- R101: the two's-complement negation of the sum in 8 bits. -/
theorem ck_eq_neg_sum8 (bs : List Byte) : ck bs = -sum8 bs := by
  rw [← BitVec.toNat_inj, ck, BitVec.toNat_ofNat, BitVec.toNat_neg]

theorem frameSumOk_iff (f : List Byte) : frameSumOk f = true ↔ sum8 f = 0x00#8 := beq_iff_eq

/-- R103 is R102 on the frame of the parts. -/
theorem validateResponse_eq_frameSumOk (quantity code : Byte) (payload : List Byte) (received : Byte) :
    validateResponse quantity code payload received = frameSumOk ([quantity, code] ++ payload ++ [received]) := rfl

/-- R104, for every byte sequence. -/
theorem sum8_append_ck (bs : List Byte) : sum8 (bs ++ [ck bs]) = 0x00#8 := by
  rw [sum8_append, sum8_singleton, ck_eq_neg_sum8]
  exact add_neg_cancel _

/-- Settles O2: in the group of bytes, `c` completes the sum exactly when it is its negation, and a frame's sum is 0 exactly
when the sum before the last byte is the negation of that byte. -/
theorem ckCompletesTheSum : Obligations.CkCompletesTheSum := by
  refine ⟨fun bs => ?formula, fun bs c => ?unique, fun bs last => ?frame⟩
  case formula => rw [ck_eq_neg_sum8, BitVec.toNat_neg]
  case unique =>
    rw [← add_eq_zero_iff_toNat, ck_eq_neg_sum8]
    exact add_eq_zero_iff_neg_eq.trans eq_comm
  case frame =>
    calc frameSumOk (bs ++ [last]) = true
        ↔ sum8 bs + last = 0x00#8 := by rw [frameSumOk_iff, sum8_append, sum8_singleton]
      _ ↔ sum8 bs = -last := add_eq_zero_iff_eq_neg
      _ ↔ (sum8 bs).toNat = (0x100 - last.toNat) % 0x100 := by rw [← BitVec.toNat_inj, BitVec.toNat_neg]

/-- Settles O3: the sum of the parts as a list is the sum of the four numbers. -/
theorem validateResponseIsTheSumTest : Obligations.ValidateResponseIsTheSumTest := by
  intro quantity code payload received
  rw [validateResponse_eq_frameSumOk, frameSumOk_iff, sum8_eq_zero_iff]
  simp [add_assoc]

/-! ### The frames that the encode functions build -/

theorem encodeStatusRequest_eq_some_iff {p : Params} {c : Byte} {f : List Byte} :
    encodeStatusRequest p c = some f ↔ isStatusCode p c = true ∧ statusRequestFrame p c = f := by
  simp [encodeStatusRequest]

theorem encodeThrottleCommand_eq_some_iff {p : Params} {raw : Half} {f : List Byte} :
    encodeThrottleCommand p raw = some f ↔
      raw.toNat * p.thrFactor ≤ 0xFFFF ∧ throttleFrame p (BitVec.ofNat 16 (raw.toNat * p.thrFactor)) = f := by
  simp [encodeThrottleCommand]

/-- R104: a frame completed by its own checksum passes the whole-frame test. -/
theorem frameSumOk_withChecksum (h : List Byte) : frameSumOk (withChecksum h) = true :=
  (frameSumOk_iff _).2 (sum8_append_ck h)

/-- Every encoded frame is a header, some data and the checksum of both (R70). -/
theorem encoded_eq_withChecksum {p : Params} {f : List Byte}
    (h : (∃ c, encodeStatusRequest p c = some f) ∨ (∃ raw, encodeThrottleCommand p raw = some f)) :
    ∃ quantity code payload, f = withChecksum ([quantity, code] ++ payload) := by
  obtain ⟨c, h⟩ | ⟨raw, h⟩ := h
  · obtain ⟨-, rfl⟩ := encodeStatusRequest_eq_some_iff.1 h
    exact ⟨p.reqQty, c, [], rfl⟩
  · obtain ⟨-, rfl⟩ := encodeThrottleCommand_eq_some_iff.1 h
    exact ⟨p.thrQty, p.setValueCode, _ :: _ :: zeros 18, rfl⟩

/-- Settles O4: an encoded frame ends with its own checksum, and `validate_response` is the same test on its parts. -/
theorem checksumRoundTrip : Obligations.ChecksumRoundTrip := by
  refine ⟨sum8_append_ck, fun cfg f hf => ?_⟩
  obtain ⟨quantity, code, payload, rfl⟩ := encoded_eq_withChecksum hf
  have hok := frameSumOk_withChecksum ([quantity, code] ++ payload)
  exact ⟨hok, quantity, code, payload, _, rfl, hok⟩

/-! ### What the checksum detects -/

/-- Sequences with the same sum have the same verdict. -/
theorem frameSumOk_congr {f g : List Byte} (h : sum8 f = sum8 g) : frameSumOk f = frameSumOk g := by
  rw [frameSumOk, frameSumOk, h]

/-- Settles O5: each clause is what the change does to the sum. -/
theorem singleByteChangeIsDetected : Obligations.SingleByteChangeIsDetected := by
  refine ⟨fun pre post b b' hb => ?single, fun f changes hlen hzero => ?zeroSum, fun f g hlen hf => ?exactly,
    fun f g h => frameSumOk_congr (sum8_perm h), fun pre post n => ?zeroBytes⟩
  case single =>
    have hne : sum8 (pre ++ b :: post) ≠ sum8 (pre ++ b' :: post) := mt sum8_replace_inj.1 hb
    refine ⟨hne, fun hok => Bool.eq_false_iff.2 fun hok' => hne ?_⟩
    rw [(frameSumOk_iff _).1 hok, (frameSumOk_iff _).1 hok']
  case zeroSum =>
    apply frameSumOk_congr
    rw [sum8_zipWith_add hlen, hzero, BitVec.add_zero]
  case exactly =>
    rw [sum8_zipWith_sub hlen, (frameSumOk_iff f).1 hf, BitVec.sub_zero, frameSumOk_iff]
  case zeroBytes =>
    apply frameSumOk_congr
    rw [sum8_append, sum8_append, sum8_append, sum8_zeros, BitVec.add_zero]

/-! ### The words and the meaning of the checksum commands -/

/-- R82, class byte: the operand stands in the low byte of the word. -/
theorem cmdWord_byteArg_eq_ofNat (op b : Byte) :
    cmdWord op (byteArg b) = BitVec.ofNat 24 (op.toNat * 65536 + b.toNat) := by
  rw [cmdWord_ofNat op b.toNat (by omega), byteArg, BitVec.ofNat_toNat]

/-- `ok(v)` written out (R222): it completes with `RES` = v and `CMDERR` = 0, and keeps everything else. -/
theorem completeWith_eq (v : Half) (s : State) :
    completeWith v s = { s with res := v, status := { s.status with cmderr := .none } } := rfl

theorem exec_csumClr (s : State) : exec .csumClr s = .next (completeWith 0x0000#16 { s with acc := 0x00#8 }) := rfl

theorem exec_csumAdd (b : Byte) (s : State) :
    exec (.csumAdd b) s = .next (completeWith 0x0000#16 { s with acc := s.acc + b }) := rfl

theorem exec_csumRd (s : State) : exec .csumRd s = .next (completeWith (s.acc.setWidth 16) s) := rfl

/-- R113: the value is the negation of `ACC`, which is 0x00 and not 0x100 where `ACC` is 0x00. -/
theorem exec_csumGen (s : State) : exec .csumGen s = .next (completeWith ((-s.acc).setWidth 16) s) := by
  have hneg : (-s.acc).setWidth 16 = BitVec.ofNat 16 ((0x100 - s.acc.toNat) % 0x100) := by
    rw [← BitVec.ofNat_toNat, BitVec.toNat_neg]
  rw [hneg]
  rfl

theorem exec_csumChk (c : Byte) (s : State) :
    exec (.csumChk c) s = .next (completeWith (if s.acc + c = 0x00#8 then 0x0001#16 else 0x0000#16) s) := rfl

/-- Settles O24: addition of bytes is addition of numbers modulo 256. -/
theorem csumAddAddsModulo256 : Obligations.CsumAddAddsModulo256 := by
  intro b s
  constructor
  · rw [← decodeWord_byte (op := 0x02#8) rfl b, cmdWord_byteArg_eq_ofNat]
    rfl
  · have hacc : s.acc + b = BitVec.ofNat 8 ((s.acc.toNat + b.toNat) % 256) := by
      rw [← BitVec.toNat_inj, BitVec.toNat_add, BitVec.toNat_ofNat, Nat.mod_mod]
    rw [exec_csumAdd, completeWith_eq, hacc]

/-- Settles O27: the sum of two bytes is 0 exactly when their numbers sum to 0 modulo 256. -/
theorem csumChkTestsChecksum : Obligations.CsumChkTestsChecksum := by
  intro c s
  constructor
  · rw [← decodeWord_byte (op := 0x05#8) rfl c, cmdWord_byteArg_eq_ofNat]
    rfl
  · simp only [exec_csumChk, completeWith_eq, add_eq_zero_iff_toNat]

/-- Settles O23: the word is opcode 0x01 of class none, and the meaning is R110's pseudocode. -/
theorem csumClrClearsAccumulator : Obligations.CsumClrClearsAccumulator :=
  ⟨decodeWord_none (op := 0x01#8) rfl, fun s => by rw [exec_csumClr, completeWith_eq]⟩

/-- Settles O25: the word is opcode 0x03 of class none, and extending `ACC` to 16 bits keeps its number. -/
theorem csumRdReadsAccumulator : Obligations.CsumRdReadsAccumulator :=
  ⟨decodeWord_none (op := 0x03#8) rfl, fun s => by rw [exec_csumRd, completeWith_eq, BitVec.ofNat_toNat]⟩

/-- Settles O26: the negation of `ACC` is a byte that completes it to 0, and extending it to 16 bits keeps its number. -/
theorem csumGenGivesChecksum : Obligations.CsumGenGivesChecksum := by
  refine ⟨decodeWord_none (op := 0x04#8) rfl, fun s => ⟨(-s.acc).setWidth 16, ?_, ?_⟩⟩
  · rw [exec_csumGen, completeWith_eq]
  · have hnum : ((-s.acc).setWidth 16).toNat = (-s.acc).toNat := BitVec.toNat_setWidth_of_le (by decide)
    rw [hnum]
    exact ⟨(-s.acc).isLt, (add_eq_zero_iff_toNat _ _).1 (add_neg_cancel _)⟩

end Sys2Proof.Machine
end

section
/-! PROOFS of the family 41_serializer.md: the commands of the serializer (spec/41_serializer.md R140 to R143).

A serialize command leaves in `TXBUF` the bytes of a frame that its own checksum completes (R70), and 0x00 behind them. So
each statement about the buffer splits at the checksum's offset: the bytes before it and the zeros behind it are those of the
frame's header and data, and the byte at it is the checksum. -/

namespace Sys2Proof.Machine

/-! ### The words of a command with an operand -/

/-- R83 on the word written as a number, class byte. -/
theorem decodeWord_ofNat_byte {op : Byte} {f : Byte → Instr} (hop : opcodeForm op = some (.byte f)) (b : Byte) :
    decodeWord (BitVec.ofNat 24 (op.toNat * 65536 + b.toNat)) = .ok (f b) := by
  rw [← cmdWord_byteArg_eq_ofNat, decodeWord_byte hop]

/-- R83 on the word written as a number, class half. -/
theorem decodeWord_ofNat_half {op : Byte} {f : Half → Instr} (hop : opcodeForm op = some (.half f)) (x : Half) :
    decodeWord (BitVec.ofNat 24 (op.toNat * 65536 + x.toNat)) = .ok (f x) := by
  rw [cmdWord_ofNat op x.toNat x.isLt, decodeWord_half hop, BitVec.ofNat_toNat, BitVec.setWidth_eq]

/-! ### A buffer that holds a frame with its checksum -/

/-- Zeros behind a sequence are not told apart from its end. -/
theorem getD_append_zeros (l : List Byte) (n k : Nat) : (l ++ zeros n).getD k 0x00#8 = l.getD k 0x00#8 := by
  obtain hk | hk := Nat.lt_or_ge k l.length
  · exact List.getD_append l (zeros n) 0x00#8 k hk
  · rw [List.getD_append_right l (zeros n) 0x00#8 k hk, List.getD_eq_default l 0x00#8 hk, zeros,
      List.getD_eq_getElem?_getD, List.getElem?_getD_replicate_default_eq]

/-- The byte behind header and data is their checksum. -/
theorem read_withChecksum_length (h : List Byte) : (Memory.ofBytes (withChecksum h)).read h.length = ck h := by
  rw [Memory.read_ofBytes, withChecksum, List.getD_append_right _ _ _ _ le_rfl, Nat.sub_self, List.getD_cons_zero]

/-- Every other byte is that of header and data, or 0x00 behind the frame. -/
theorem read_withChecksum_of_ne (h : List Byte) {k : Nat} (hk : k ≠ h.length) :
    (Memory.ofBytes (withChecksum h)).read k = h.getD k 0x00#8 := by
  rw [Memory.read_ofBytes, withChecksum]
  obtain hlt | hgt := Nat.lt_or_gt_of_ne hk
  · exact List.getD_append h [ck h] 0x00#8 k hlt
  · have hbehind : (h ++ [ck h]).length ≤ k := by rw [List.length_append, List.length_singleton]; omega
    rw [List.getD_eq_default _ _ hbehind, List.getD_eq_default _ _ hgt.le]

/-! ### The bytes of the two request frames -/

theorem isStatusCode_iff_mem (p : Params) (c : Byte) :
    isStatusCode p c = true ↔ c ∈ [p.status1Code, p.status2Code, p.status3Code] := by
  simp [isStatusCode, or_assoc]

/-- R72: the checksum of `03 c` is 0xFD − c. -/
theorem statusRequestFrame_eq (cfg : Config) (c : Byte) :
    statusRequestFrame cfg.params c = [0x03#8, c, 0xFD#8 - c] := by
  obtain ⟨hqty, -⟩ := Config.facts cfg
  have hck : ck [0x03#8, c] = 0xFD#8 - c := by
    rw [ck_eq_neg_sum8, sum8_cons, sum8_singleton, neg_add, ← sub_eq_add_neg]
    rfl
  rw [statusRequestFrame, hqty, withChecksum, hck]
  rfl

/-- R51: the low byte of a 16-bit value. -/
theorem extractLow_ofNat (n : Nat) : (BitVec.ofNat 16 n).extractLsb' 0 8 = BitVec.ofNat 8 (n % 256) := by
  apply BitVec.eq_of_toNat_eq
  rw [BitVec.extractLsb'_toNat, BitVec.toNat_ofNat, BitVec.toNat_ofNat, Nat.shiftRight_zero]
  omega

/-- R51: the high byte of a 16-bit value. -/
theorem extractHigh_ofNat {n : Nat} (hn : n ≤ 0xFFFF) :
    (BitVec.ofNat 16 n).extractLsb' 8 8 = BitVec.ofNat 8 (n / 256) := by
  apply BitVec.eq_of_toNat_eq
  rw [BitVec.extractLsb'_toNat, BitVec.toNat_ofNat, BitVec.toNat_ofNat, Nat.shiftRight_eq_div_pow]
  omega

/-- The four bytes of R73 before the padding, for the scaled throttle `n`. -/
def throttleHeader (code : Byte) (n : Nat) : List Byte :=
  [0x17#8, code, BitVec.ofNat 8 (n % 256), BitVec.ofNat 8 (n / 256)]

/-- R73: header, 18 bytes of padding, checksum. -/
theorem throttleFrame_eq (cfg : Config) {n : Nat} (hn : n ≤ 0xFFFF) :
    throttleFrame cfg.params (BitVec.ofNat 16 n) =
      withChecksum (throttleHeader cfg.params.setValueCode n ++ zeros 18) := by
  obtain ⟨-, hqty, -⟩ := Config.facts cfg
  rw [throttleFrame, hqty, extractLow_ofNat, extractHigh_ofNat hn, throttleHeader]

/-- R73, R101: the padding adds nothing to the checksum. -/
theorem ck_throttleHeader (code : Byte) {n : Nat} (hn : n ≤ 0xFFFF) :
    ck (throttleHeader code n ++ zeros 18) =
      BitVec.ofNat 8 (0x100 - (0x17 + code.toNat + n % 256 + n / 256) % 256) := by
  have hlow : n % 256 % 256 = n % 256 := Nat.mod_mod n 256
  have hhigh : n / 256 % 256 = n / 256 := Nat.mod_eq_of_lt (by omega)
  rw [ck, sum8_append, sum8_zeros, BitVec.add_zero, sum8_toNat]
  simp [throttleHeader, hlow, hhigh, Nat.add_assoc]

/-! ### The meaning of the serializer commands -/

/-- R140 on a status code. -/
theorem exec_txStatus_of_isStatusCode {c : Byte} {s : State} (h : isStatusCode s.cfg.params c = true) :
    exec (.txStatus c) s = .next (completeWith 0x0000#16 (loadTx [0x03#8, c, 0xFD#8 - c] 3#5 s)) := by
  obtain ⟨-, hbuilt⟩ := (serializeStatus_cases c s).resolve_right (not_and_of_not_left _ (by simp [h]))
  rw [← statusRequestFrame_eq s.cfg, ← hbuilt]
  rfl

/-- R140 on every other code. -/
theorem exec_txStatus_of_not_isStatusCode {c : Byte} {s : State} (h : ¬ isStatusCode s.cfg.params c = true) :
    exec (.txStatus c) s = .next (raiseCause .badCode s) := by
  obtain ⟨-, hrefused⟩ := (serializeStatus_cases c s).resolve_left (not_and_of_not_left _ h)
  rw [← hrefused]
  rfl

/-- R141 where the scaled value fits 16 bits. -/
theorem exec_txThr_of_le {raw : Half} {s : State} (h : raw.toNat * s.cfg.params.thrFactor ≤ 0xFFFF) :
    exec (.txThr raw) s = .next (completeWith 0x0000#16 (loadTx (withChecksum
      (throttleHeader s.cfg.params.setValueCode (raw.toNat * s.cfg.params.thrFactor) ++ zeros 18)) 23#5 s)) := by
  obtain ⟨-, hbuilt⟩ := (serializeThrottle_cases raw s).resolve_right (not_and_of_not_left _ (Nat.not_lt.2 h))
  rw [← throttleFrame_eq s.cfg h, ← hbuilt]
  rfl

/-- R141 where it does not fit. -/
theorem exec_txThr_of_lt {raw : Half} {s : State} (h : 0xFFFF < raw.toNat * s.cfg.params.thrFactor) :
    exec (.txThr raw) s = .next (raiseCause .range s) := by
  obtain ⟨-, hrefused⟩ := (serializeThrottle_cases raw s).resolve_left (not_and_of_not_left _ (Nat.not_le.2 h))
  rw [← hrefused]
  rfl

theorem exec_txLen (s : State) : exec .txLen s = .next (completeWith (s.txlen.setWidth 16) s) := rfl

/-- `raise E` written out (R223). -/
theorem raiseCause_eq (e : Cause) (s : State) :
    raiseCause e s = { s with res := 0x0000#16, status := { s.status with cmderr := e, errseen := true } } := rfl

/-- A frame is built and the command completes with 0: what R140 and R141 change, and that they change nothing else. -/
theorem completeWith_loadTx_eq (f : List Byte) (n : BitVec 5) (s : State) :
    completeWith 0x0000#16 (loadTx f n s) =
      { s with txbuf := Memory.ofBytes f, txlen := n, res := 0x0000#16, status := { s.status with cmderr := .none } } := rfl

/-- R143 at and above `TXLEN`. -/
theorem exec_txRd_above {i : Byte} {s : State} (h : s.txlen.toNat ≤ i.toNat) :
    exec (.txRd i) s = .next (raiseCause .range s) := if_pos h

/-- R143 below `TXLEN`, at an offset that `TXBUF` has. -/
theorem exec_txRd_below {i : Byte} {s : State} (h : i.toNat < s.txlen.toNat) (hi : i.toNat < 23) :
    exec (.txRd i) s = .next (completeWith ((s.txbuf.read i.toNat).setWidth 16) s) := by
  obtain ⟨-, hqty, -⟩ := Config.facts s.cfg
  have hsize : s.bufferBytes .tx = 23 := congrArg BitVec.toNat hqty
  have hread : memRead s .tx i.toNat 1 = (s.txbuf.read i.toNat).toNat := memRead_one (by rw [hsize]; exact hi)
  calc exec (.txRd i) s
      = .next (completeWithRead .tx i.toNat 1 s) := if_neg (Nat.not_le.2 h)
    _ = .next (completeWith ((s.txbuf.read i.toNat).setWidth 16) s) := by
        rw [completeWithRead, hread, BitVec.ofNat_toNat]

/-! ### The obligations -/

/-- Settles O29: the command builds exactly for the three status codes (R140), the frame of R72. -/
theorem txStatusBuildsRequest : Obligations.TxStatusBuildsRequest := by
  intro c s
  rw [← isStatusCode_iff_mem]
  refine ⟨decodeWord_ofNat_byte (op := 0x10#8) rfl c, fun hcode => ?built, fun hother => ?refused⟩
  case built =>
    rw [exec_txStatus_of_isStatusCode hcode, completeWith_loadTx_eq]
    exact ⟨_, rfl, rfl, Memory.read_ofBytes _⟩
  case refused => rw [exec_txStatus_of_not_isStatusCode hother, raiseCause_eq]

/-- Settles O30: the command builds exactly when the scaled value fits (R141); its frame is read before and behind the
checksum as header and zeros, and at offset 22 as the checksum. -/
theorem txThrBuildsThrottleCommand : Obligations.TxThrBuildsThrottleCommand := by
  intro raw s scaled code
  refine ⟨decodeWord_ofNat_half (op := 0x11#8) rfl raw, fun hfits => ?built, fun hover => ?refused⟩
  case built =>
    rw [exec_txThr_of_le hfits, completeWith_loadTx_eq]
    refine ⟨_, rfl, rfl, fun k hk => ?others, ?checksum⟩
    case others =>
      exact (read_withChecksum_of_ne _ hk).trans (getD_append_zeros (throttleHeader code scaled) 18 k)
    case checksum =>
      exact (read_withChecksum_length (throttleHeader code scaled ++ zeros 18)).trans (ck_throttleHeader code hfits)
  case refused => rw [exec_txThr_of_lt hover, raiseCause_eq]

/-- Settles O32: the two cases of R143; a length of at most 23 keeps the offset inside `TXBUF`. -/
theorem txRdReadsFrameByte : Obligations.TxRdReadsFrameByte := by
  intro i s
  refine ⟨decodeWord_ofNat_byte (op := 0x13#8) rfl i, fun hbelow hlen => ?_, fun habove => ?_⟩
  · rw [exec_txRd_below hbelow (Nat.lt_of_lt_of_le hbelow hlen), completeWith_eq]
  · rw [exec_txRd_above habove, raiseCause_eq]

/-- Settles O31: the word is opcode 0x12 of class none, and extending `TXLEN` to 16 bits keeps its number. -/
theorem txLenReadsLength : Obligations.TxLenReadsLength :=
  ⟨decodeWord_none (op := 0x12#8) rfl, fun s => by rw [exec_txLen, completeWith_eq, BitVec.ofNat_toNat]⟩

end Sys2Proof.Machine
end

section
/-! PROOFS of the family 42_deserializer.md: the frame verdict (spec/42_deserializer.md R162), the commands of the
deserializer (R168 to R177), and that the command path computes `deframe` (R178).

The link between the two is `frameVerdict`: the three tests of R162 on a whole frame. `deframe` answers by it, and the byte
that completes a frame in `RXBUF` is judged by it (`JudgedFrame`), so every statement of R178 is about one cause. -/

namespace Sys2Proof.Machine

/-! ### The table of R160 -/

/-- The codes with their response lengths, as R160 lists them. -/
def responseTable (p : Params) : List (Byte × Byte) :=
  [(p.status1Code, p.rspQty1), (p.status2Code, p.rspQty2), (p.status3Code, p.rspQty3), (p.setValueCode, p.rspQtyAck)]

/-- `rsp_qty` finds the rows of the table and no others; a row is not hidden by another because the codes are distinct. -/
theorem mem_responseTable_iff (cfg : Config) {c q : Byte} :
    (c, q) ∈ responseTable cfg.params ↔ rspQty cfg.params c = some q := by
  simp only [responseTable, List.mem_cons, List.not_mem_nil, or_false, Prod.mk.injEq]
  constructor
  · rintro (⟨rfl, rfl⟩ | ⟨rfl, rfl⟩ | ⟨rfl, rfl⟩ | ⟨rfl, rfl⟩)
    · exact rspQty_status1Code cfg
    · exact rspQty_status2Code cfg
    · exact rspQty_status3Code cfg
    · exact rspQty_setValueCode cfg
  · intro h
    simp only [rspQty, beq_iff_eq] at h
    split_ifs at h with h1 hv h2 h3 <;> cases h
    · exact .inl ⟨h1, rfl⟩
    · exact .inr (.inr (.inr ⟨hv, rfl⟩))
    · exact .inr (.inl ⟨h2, rfl⟩)
    · exact .inr (.inr (.inl ⟨h3, rfl⟩))

/-- `CODES` is the domain of `rsp_qty`. -/
theorem mem_responseCodes_iff (cfg : Config) {c : Byte} :
    c ∈ (responseTable cfg.params).map Prod.fst ↔ ∃ q, rspQty cfg.params c = some q := by
  simp only [← mem_responseTable_iff, List.mem_map, Prod.exists, exists_and_right, exists_eq_right]

theorem not_mem_responseCodes_iff (cfg : Config) {c : Byte} :
    c ∉ (responseTable cfg.params).map Prod.fst ↔ rspQty cfg.params c = none := by
  rw [mem_responseCodes_iff, Option.eq_none_iff_forall_ne_some, not_exists]

/-! ### Little-endian fields and reads of `RXBUF` -/

/-- R51: the high byte stands above the low byte. -/
theorem le16Of_eq_append (low high : Byte) : le16Of low high = high ++ low := by
  have hlow : (low.setWidth 16).toNat = low.toNat := BitVec.toNat_setWidth_of_le (by decide)
  have hhigh : (high.setWidth 16).toNat = high.toNat := BitVec.toNat_setWidth_of_le (by decide)
  have hshift : high.toNat <<< 8 < 2 ^ 16 := by rw [Nat.shiftLeft_eq]; omega
  apply BitVec.eq_of_toNat_eq
  rw [le16Of, BitVec.toNat_or, BitVec.toNat_shiftLeft, hlow, hhigh, Nat.mod_eq_of_lt hshift, Nat.or_comm,
    BitVec.toNat_append]

/-- R12: the number that a two-byte read assembles is the field of R164. -/
theorem ofNat_littleEndian (low high : Byte) : BitVec.ofNat 16 (low.toNat + 256 * high.toNat) = le16Of low high := by
  rw [le16Of_eq_append]
  apply BitVec.eq_of_toNat_eq
  rw [BitVec.toNat_append, Nat.shiftLeft_eq, Nat.mul_comm high.toNat, ← Nat.two_pow_add_eq_or_of_lt low.isLt,
    BitVec.toNat_ofNat]
  omega

/-- A one-byte read of `RXBUF` at an offset that it has. -/
theorem completeWithRead_rx_one {i : Nat} {s : State} (h : i < s.cfg.params.rxBufBytes) :
    completeWithRead .rx i 1 s = completeWith ((s.rxbuf.read i).setWidth 16) s := by
  rw [completeWithRead, memRead_one (sp := .rx) h, BitVec.ofNat_toNat]
  rfl

/-- A two-byte read of `RXBUF` at offsets that it has. -/
theorem completeWithRead_rx_two {i : Nat} {s : State} (h : i + 1 < s.cfg.params.rxBufBytes) :
    completeWithRead .rx i 2 s = completeWith (le16Of (s.rxbuf.read i) (s.rxbuf.read (i + 1))) s := by
  rw [completeWithRead, memRead_two (sp := .rx) h, ofNat_littleEndian]
  rfl

/-- R7(b), R8: `RXBUF` holds the shortest response. -/
theorem Config.three_le_rxBufBytes (cfg : Config) : 3 ≤ cfg.params.rxBufBytes := by
  obtain ⟨hmin, hmax⟩ := rspQty_fits (rspQty_status1Code cfg)
  exact hmin.trans hmax

theorem payloadHas_iff (q : Byte) (i : Nat) : payloadHas q i = true ↔ i + 3 < q.toNat := decide_eq_true_iff

theorem RxState.done_iff (r : RxState) : r.done = true ↔ r = .doneOk ∨ r = .doneErr := by
  cases r <;> simp [RxState.done]

/-! ### The meaning of the deserializer commands -/

/-- The state right after `RX.ARM c`, for a response of `q` bytes (R168). -/
def armedFor (c q : Byte) (s : State) : State :=
  completeWith (q.setWidth 16) { clearFrame s with rxexpcode := c, rxexpqty := q, status := s.status.arm }

section Commands

variable {b c i off q : Byte} {s : State}

/-- R168 on a code outside the table, whether armed or not. -/
theorem armFor_of_unknown (hq : rspQty s.cfg.params c = none) : armFor c s = raiseCause .badCode s := by
  obtain ⟨-, h⟩ | ⟨q, hq', -⟩ | ⟨q, hq', -⟩ := armFor_cases c s
  · exact h
  all_goals exact absurd (hq.symm.trans hq') (Option.some_ne_none q).symm

/-- R168 while a response is outstanding. -/
theorem armFor_of_busy (hq : rspQty s.cfg.params c = some q) (ha : s.status.rxst = .armed) :
    armFor c s = raiseCause .busy s := by
  obtain ⟨hq', -⟩ | ⟨-, -, -, h⟩ | ⟨-, -, hna, -⟩ := armFor_cases c s
  · exact absurd (hq.symm.trans hq') (Option.some_ne_none q)
  · exact h
  · exact absurd ha hna

/-- R168 on a code of the table while nothing is outstanding. -/
theorem armFor_of_ready (hq : rspQty s.cfg.params c = some q) (ha : s.status.rxst ≠ .armed) :
    armFor c s = armedFor c q s := by
  obtain ⟨hq', -⟩ | ⟨-, -, ha', -⟩ | ⟨q', hq', -, h⟩ := armFor_cases c s
  · exact absurd (hq.symm.trans hq') (Option.some_ne_none q)
  · exact absurd ha' ha
  · cases hq.symm.trans hq'
    exact h

theorem exec_rxArm (c : Byte) (s : State) : exec (.rxArm c) s = .next (armFor c s) := rfl

theorem exec_rxByte (b : Byte) (s : State) : exec (.rxByte b) s = .next (offerByte b s) := rfl

theorem exec_rxAbort (s : State) :
    exec .rxAbort s = .next (completeWith 0x0000#16 { clearFrame s with status := s.status.abort }) := rfl

/-- R171. -/
theorem offerByte_of_not_armed (ha : s.status.rxst ≠ .armed) : offerByte b s = dropStray s :=
  offerBytes_stray ha (List.cons_ne_nil b [])

/-- R169, R170: the byte that makes `RXCNT` = `RXEXPQTY`. -/
theorem offerByte_of_last (ha : s.status.rxst = .armed) (hlast : s.rxcnt.toNat + 1 = s.rxexpqty.toNat)
    (hfits : s.rxexpqty.toNat ≤ s.cfg.params.rxBufBytes) :
    offerByte b s = completeWith 0x0000#16 (judgeFrame { s with
      rxbuf := s.rxbuf.write s.rxcnt.toNat b, rxacc := s.rxacc + b, rxcnt := s.rxexpqty }) := by
  have hcount : s.rxcnt + 1#8 = s.rxexpqty := by bv_omega
  obtain ⟨hna, -⟩ | ⟨-, hmore, -⟩ | ⟨-, -, h⟩ := offerByte_cases b s
  · exact absurd ha hna
  · exact absurd hcount hmore
  · rw [h, countedByte_inside (by omega), hcount]

/-- R172, the fields of `STATUS`. -/
theorem Status.abort_eq (st : Status) :
    st.abort = { st with
      rxst := .idle
      rxerr := if st.rxst = .armed then .responseTimeout else st.rxerr
      errseen := st.errseen || decide (st.rxst = .armed) } := by
  obtain ⟨rxst, stray, errseen, cmderr, rxerr⟩ := st
  cases rxst <;> simp [Status.abort]

/-- R173 on a complete frame, accepted or not. -/
theorem exec_rxHdr_of_done (h : s.status.rxst = .doneOk ∨ s.status.rxst = .doneErr) :
    exec .rxHdr s = .next (completeWith (le16Of (s.rxbuf.read 0) (s.rxbuf.read 1)) s) := by
  have hsize := Config.three_le_rxBufBytes s.cfg
  calc exec .rxHdr s
      = .next (completeWithRead .rx 0 2 s) := if_pos ((RxState.done_iff _).2 h)
    _ = _ := by rw [completeWithRead_rx_two (by omega)]

/-- R173 otherwise. -/
theorem exec_rxHdr_of_not_done (h : ¬ (s.status.rxst = .doneOk ∨ s.status.rxst = .doneErr)) :
    exec .rxHdr s = .next (raiseCause .notReady s) := if_neg (mt (RxState.done_iff _).1 h)

/-- R174 unless DONE_OK. -/
theorem exec_rxRd_of_not_doneOk (h : s.status.rxst ≠ .doneOk) :
    exec (.rxRd i) s = .next (raiseCause .notReady s) := if_pos h

/-- R174 beyond the payload. -/
theorem exec_rxRd_beyond (h : s.status.rxst = .doneOk) (hi : s.rxexpqty.toNat ≤ i.toNat + 3) :
    exec (.rxRd i) s = .next (raiseCause .range s) :=
  (if_neg (not_not.2 h)).trans (if_neg (mt (payloadHas_iff _ _).1 (Nat.not_lt.2 hi)))

/-- R174 within the payload. -/
theorem exec_rxRd_within (h : s.status.rxst = .doneOk) (hi : i.toNat + 3 < s.rxexpqty.toNat)
    (hfits : s.rxexpqty.toNat ≤ s.cfg.params.rxBufBytes) :
    exec (.rxRd i) s = .next (completeWith ((s.rxbuf.read (2 + i.toNat)).setWidth 16) s) := by
  calc exec (.rxRd i) s
      = .next (completeWithRead .rx (2 + i.toNat) 1 s) :=
        (if_neg (not_not.2 h)).trans (if_pos ((payloadHas_iff _ _).2 hi))
    _ = _ := by rw [completeWithRead_rx_one (by omega)]

/-- R175 unless DONE_OK. -/
theorem exec_rxRd16_of_not_doneOk (h : s.status.rxst ≠ .doneOk) :
    exec (.rxRd16 off) s = .next (raiseCause .notReady s) := if_pos h

/-- R175 where a byte of the field lies beyond the payload. -/
theorem exec_rxRd16_beyond (h : s.status.rxst = .doneOk) (hoff : s.rxexpqty.toNat ≤ off.toNat + 1 + 3) :
    exec (.rxRd16 off) s = .next (raiseCause .range s) :=
  (if_neg (not_not.2 h)).trans (if_neg (mt (payloadHas_iff _ _).1 (Nat.not_lt.2 hoff)))

/-- R175, R176 where both bytes are of the payload. -/
theorem exec_rxRd16_within (h : s.status.rxst = .doneOk) (hoff : off.toNat + 1 + 3 < s.rxexpqty.toNat)
    (hfits : s.rxexpqty.toNat ≤ s.cfg.params.rxBufBytes) :
    exec (.rxRd16 off) s = .next (completeWith
      (le16Of (s.rxbuf.read (2 + off.toNat)) (s.rxbuf.read (2 + off.toNat + 1))) s) := by
  calc exec (.rxRd16 off) s
      = .next (completeWithRead .rx (2 + off.toNat) 2 s) :=
        (if_neg (not_not.2 h)).trans (if_pos ((payloadHas_iff _ _).2 hoff))
    _ = _ := by rw [completeWithRead_rx_two (by omega)]

/-- R177 on a code of the table. -/
theorem exec_rxQty_of_known (hq : rspQty s.cfg.params c = some q) :
    exec (.rxQty c) s = .next (completeWith (q.setWidth 16) s) := by
  simp only [exec, execRxQty, hq]

/-- R177 on every other code. -/
theorem exec_rxQty_of_unknown (hq : rspQty s.cfg.params c = none) :
    exec (.rxQty c) s = .next (raiseCause .badCode s) := by
  simp only [exec, execRxQty, hq]

end Commands

/-! ### The verdict on a whole frame -/

/-- The three tests of R162 and R169, in their order. -/
theorem verdict_eq_ite (sum quantity code expQty expCode : Byte) :
    verdict sum quantity code expQty expCode =
      if sum ≠ 0x00#8 then .checksumMismatch
      else if quantity ≠ expQty then .quantityMismatch
      else if code ≠ expCode then .unexpectedCode
      else .none := by
  simp only [verdict, bne_iff_ne]

/-- The verdict on the frame `f` expected with quantity `q` and code `c`. -/
def frameVerdict (q c : Byte) (f : List Byte) : Cause :=
  verdict (sum8 f) (f.getD 0 0x00#8) (f.getD 1 0x00#8) q c

theorem deframe_eq_verdictAnswer {cfg : Config} {c q : Byte} {f : List Byte} (hq : rspQty cfg.params c = some q)
    (hlen : f.length = q.toNat) : deframe cfg.params c f = some (verdictAnswer q f (frameVerdict q c f)) :=
  deframe_on_domain hq hlen

theorem verdictAnswer_eq_ok_iff {q : Byte} {f p : List Byte} {e : Cause} :
    verdictAnswer q f e = .ok p ↔ e = .none ∧ payloadOf q f = p := by
  obtain ⟨he, h⟩ | ⟨he, h⟩ := verdictAnswer_cases q f e <;> rw [h] <;> simp [he]

theorem verdictAnswer_eq_error_iff {q : Byte} {f : List Byte} {e e' : Cause} :
    verdictAnswer q f e = .error e' ↔ e ≠ .none ∧ e = e' := by
  obtain ⟨he, h⟩ | ⟨he, h⟩ := verdictAnswer_cases q f e <;> rw [h] <;> simp [he]

/-- R57: payload byte `i` is the frame's byte at `2 + i`, and lies before the checksum byte. -/
theorem payloadOf_getElem?_eq_some {q b : Byte} {f : List Byte} {i : Nat} (h : (payloadOf q f)[i]? = some b) :
    i + 3 < q.toNat ∧ f.getD (2 + i) 0x00#8 = b := by
  rw [payloadOf, List.getElem?_take] at h
  split_ifs at h with hi
  rw [List.getElem?_drop] at h
  exact ⟨by omega, by rw [List.getD_eq_getElem?_getD, h, Option.getD_some]⟩

theorem le16_eq_some {p : List Byte} {o : Nat} {v : Half} (h : le16 p o = some v) :
    ∃ low high, p[o]? = some low ∧ p[o + 1]? = some high ∧ v = le16Of low high := by
  unfold le16 at h
  split at h
  · next low high hlow hhigh =>
    cases h
    exact ⟨low, high, hlow, hhigh, rfl⟩
  · cases h

/-! ### The command path -/

/-- R204: presenting a word that is a command executes it. -/
theorem runWords_cons_of_decode {w : CmdWord} {i : Instr} {s t : State} (hw : decodeWord w = .ok i)
    (he : exec i s = .next t) (ws : List CmdWord) : runWords (w :: ws) s = runWords ws t := by
  have hstep : presentWord w s = .next t := by
    rw [presentWord, step, takeInput_presentFirst]
    simp only [decode, hw, he]
  rw [runWords, hstep]

/-- The words of `RX.BYTE` commands offer their bytes one after the other. -/
theorem runWords_rxBytes (p : Params) (bs : List Byte) (s : State) :
    runWords (wordsOf p (bs.map .rxByte)) s = .next (offerBytes bs s) := by
  induction bs generalizing s with
  | nil => rfl
  | cons b bs ih =>
    exact (runWords_cons_of_decode (decodeWord_byte (op := 0x21#8) rfl b) (exec_rxByte b s) _).trans (ih _)

/-- R86: the words of `RX.FRAME` arm for the code and offer the bytes. -/
theorem runWords_rxFrame (p : Params) (c : Byte) (bs : List Byte) (s : State) :
    runWords (wordsOf p (expandPseudo (.rxFrame c bs))) s = .next (offerBytes bs (armFor c s)) :=
  (runWords_cons_of_decode (decodeWord_byte (op := 0x20#8) rfl c) (exec_rxArm c s) _).trans (runWords_rxBytes p bs _)

/-- What the completed reception of the frame `f` leaves behind: its bytes in `RXBUF`, judged as a whole (R169). -/
structure JudgedFrame (q c : Byte) (f : List Byte) (t : State) : Prop where
  fits : q.toNat ≤ t.cfg.params.rxBufBytes
  rxexpqty : t.rxexpqty = q
  held : ∀ k, t.rxbuf.read k = f.getD k 0x00#8
  rxst : t.status.rxst = if frameVerdict q c f = .none then .doneOk else .doneErr
  rxerr : t.status.rxerr = frameVerdict q c f

/-- From a state freshly armed, a frame of the expected length ends up judged (R169, R170). -/
theorem judgedFrame_offerBytes {s : State} {f : List Byte} (ha : s.status.rxst = .armed)
    (hq : rspQty s.cfg.params s.rxexpcode = some s.rxexpqty) (hlen : f.length = s.rxexpqty.toNat)
    (hcnt : s.rxcnt = 0#8) (hacc : s.rxacc = 0x00#8) (hbuf : s.rxbuf = Memory.empty) :
    JudgedFrame s.rxexpqty s.rxexpcode f (offerBytes f s) := by
  obtain ⟨hmin, hfits⟩ := rspQty_fits hq
  have hne : f ≠ [] := List.ne_nil_of_length_pos (by omega)
  have hzero : s.rxcnt.toNat = 0 := congrArg BitVec.toNat hcnt
  obtain ⟨m, -, hread, hfinal⟩ :=
    offerBytes_completing hne ha (by omega) hfits (hbuf ▸ Memory.empty_wf)
  have hheld : ∀ k, m.read k = f.getD k 0x00#8 := by
    intro k
    rw [hread, hzero, hbuf, Nat.zero_add, Nat.sub_zero, Memory.empty_read]
    split_ifs with hk
    · rfl
    · rw [List.getD_eq_default _ _ (by omega)]
  rw [hheld 0, hheld 1, hacc, BitVec.zero_add, ← frameVerdict] at hfinal
  rw [hfinal]
  exact ⟨hfits, rfl, hheld, rfl, rfl⟩

/-- Arming for a code and offering a frame of its response length ends with that frame judged (R168 to R170). -/
theorem judgedFrame_offerBytes_armFor {s : State} {c q : Byte} {f : List Byte} (ha : s.status.rxst ≠ .armed)
    (hq : rspQty s.cfg.params c = some q) (hlen : f.length = q.toNat) :
    JudgedFrame q c f (offerBytes f (armFor c s)) := by
  rw [armFor_of_ready hq ha]
  exact judgedFrame_offerBytes (s := armedFor c q s) rfl hq hlen rfl rfl rfl

section Judged

variable {q c b : Byte} {f : List Byte} {t : State} {i : Nat}

theorem JudgedFrame.doneOk_iff (h : JudgedFrame q c f t) : t.status.rxst = .doneOk ↔ frameVerdict q c f = .none := by
  rw [h.rxst]
  split <;> simp [*]

theorem JudgedFrame.doneErr_iff (h : JudgedFrame q c f t) : t.status.rxst = .doneErr ↔ frameVerdict q c f ≠ .none := by
  rw [h.rxst]
  split <;> simp [*]

/-- R178: every byte of an accepted frame's payload can be read. -/
theorem JudgedFrame.exec_rxRd (h : JudgedFrame q c f t) (hok : frameVerdict q c f = .none)
    (hb : (payloadOf q f)[i]? = some b) :
    exec (.rxRd (BitVec.ofNat 8 i)) t = .next (completeWith (b.setWidth 16) t) := by
  obtain ⟨hi, hbyte⟩ := payloadOf_getElem?_eq_some hb
  have hoff : (BitVec.ofNat 8 i).toNat = i := Nat.mod_eq_of_lt (by omega)
  rw [exec_rxRd_within (h.doneOk_iff.2 hok) (by rwa [hoff, h.rxexpqty]) (by rw [h.rxexpqty]; exact h.fits), hoff, h.held,
    hbyte]

/-- R178: every field of an accepted frame's payload can be read. -/
theorem JudgedFrame.exec_rxRd16 (h : JudgedFrame q c f t) (hok : frameVerdict q c f = .none) {v : Half}
    (hv : le16 (payloadOf q f) i = some v) :
    exec (.rxRd16 (BitVec.ofNat 8 i)) t = .next (completeWith v t) := by
  obtain ⟨low, high, hlow, hhigh, rfl⟩ := le16_eq_some hv
  obtain ⟨-, hlow⟩ := payloadOf_getElem?_eq_some hlow
  obtain ⟨hi, hhigh⟩ := payloadOf_getElem?_eq_some hhigh
  have hoff : (BitVec.ofNat 8 i).toNat = i := Nat.mod_eq_of_lt (by omega)
  rw [exec_rxRd16_within (h.doneOk_iff.2 hok) (by rwa [hoff, h.rxexpqty]) (by rw [h.rxexpqty]; exact h.fits), hoff,
    h.held, h.held, Nat.add_assoc, hlow, hhigh]

end Judged

/-! ### The obligations -/

/-- Settles O43: the command path leaves the frame judged by `frameVerdict`, by which `deframe` answers too. -/
theorem commandPathIsDeframe : Obligations.CommandPathIsDeframe := by
  intro s c q f ha hq hlen
  have hjudged := judgedFrame_offerBytes_armFor ha hq hlen
  rw [deframe_eq_verdictAnswer hq hlen]
  simp only [Option.some.injEq, verdictAnswer_eq_ok_iff, verdictAnswer_eq_error_iff]
  refine ⟨_, runWords_rxFrame s.cfg.params c f s, ?accepted, fun e => ?rejected, ?payload⟩
  case accepted => simp [hjudged.doneOk_iff]
  case rejected => rw [hjudged.doneErr_iff, hjudged.rxerr]
  case payload =>
    rintro p ⟨hok, rfl⟩
    exact ⟨fun i b hb => ⟨_, hjudged.exec_rxRd hok hb, rfl⟩, fun o v hv => ⟨_, hjudged.exec_rxRd16 hok hv, rfl⟩⟩

/-- Settles O7: on its domain a frame has header bytes, and each way the verdict can fall is one branch. -/
theorem deframeAcceptsExactly : Obligations.DeframeAcceptsExactly := by
  intro cfg c q f hq hlen
  constructor
  · obtain ⟨hmin, -⟩ := rspQty_fits hq
    have hheader : ∀ k < 3, f[k]? = some (f.getD k 0x00#8) := by
      intro k hk
      rw [List.getD_eq_getElem f _ (by omega), List.getElem?_eq_getElem]
    rw [deframe_on_domain hq hlen, verdict_eq_ite, hheader 0 (by decide), hheader 1 (by decide)]
    simp only [ne_eq, sum8_eq_zero_iff, Option.some.injEq]
    split_ifs <;> rfl
  · rintro quantity code payload received rfl
    rw [validateResponse_eq_frameSumOk, frameSumOk_iff, sum8_eq_zero_iff]

/-- Settles O34: the three ways R168 can go, by whether the code is of the table and whether a response is outstanding. -/
theorem rxArmArms : Obligations.RxArmArms := by
  intro c s p table
  refine ⟨decodeWord_ofNat_byte (op := 0x20#8) rfl c, fun q hmem ha => ?armed, fun hmem ha => ?busy, fun hmem => ?unknown⟩
  case armed =>
    rw [exec_rxArm, armFor_of_ready ((mem_responseTable_iff s.cfg).1 hmem) ha]
    exact ⟨_, rfl, rfl, Memory.empty_read⟩
  case busy =>
    obtain ⟨q, hq⟩ := (mem_responseCodes_iff s.cfg).1 hmem
    rw [exec_rxArm, armFor_of_busy hq ha, raiseCause_eq]
  case unknown =>
    rw [exec_rxArm, armFor_of_unknown ((not_mem_responseCodes_iff s.cfg).1 hmem), raiseCause_eq]

/-- Settles O36: the verdict is taken on the buffer after the store, in the order of `verdict_eq_ite`. -/
theorem rxByteJudgesFrame : Obligations.RxByteJudgesFrame := by
  intro b s ha hlast hfits hwf
  rw [exec_rxByte, offerByte_of_last ha hlast hfits]
  exact ⟨_, _, rfl, Memory.read_write hwf _ b, verdict_eq_ite _ _ _ _ _, rfl⟩

/-- Settles O38: the frame is cleared as on arming, and `Status.abort` is R172's table. -/
theorem rxAbortReturnsToIdle : Obligations.RxAbortReturnsToIdle := by
  refine ⟨decodeWord_none (op := 0x22#8) rfl, fun s => ⟨_, exec_rxAbort s, ?_, Memory.empty_read⟩⟩
  rw [completeWith_eq, Status.abort_eq]
  rfl

/-- Settles O39: the header's two bytes are a little-endian field at offset 0. -/
theorem rxHdrReadsHeader : Obligations.RxHdrReadsHeader := by
  refine ⟨decodeWord_none (op := 0x23#8) rfl, fun s => ⟨fun hdone => ?complete, fun hopen => ?incomplete⟩⟩
  case complete => rw [exec_rxHdr_of_done hdone, le16Of_eq_append, completeWith_eq]
  case incomplete =>
    have hnot : ¬ (s.status.rxst = .doneOk ∨ s.status.rxst = .doneErr) := by
      obtain h | h := hopen <;> simp [h]
    rw [exec_rxHdr_of_not_done hnot, raiseCause_eq]

/-- Settles O40: the three outcomes of R174. -/
theorem rxRdReadsPayloadByte : Obligations.RxRdReadsPayloadByte := by
  intro i s
  refine ⟨decodeWord_ofNat_byte (op := 0x24#8) rfl i, fun hok hi hfits => ?_, fun hok hi => ?_, fun hnot => ?_⟩
  · rw [exec_rxRd_within hok hi hfits, completeWith_eq]
  · rw [exec_rxRd_beyond hok hi, raiseCause_eq]
  · rw [exec_rxRd_of_not_doneOk hnot, raiseCause_eq]

/-- Settles O41: the three outcomes of R175; the last legal offset is the last whose second byte is of the payload. -/
theorem rxRd16ReadsLittleEndian : Obligations.RxRd16ReadsLittleEndian := by
  intro off s
  refine ⟨decodeWord_ofNat_byte (op := 0x25#8) rfl off, fun hok hoff hfits => ?_, fun hok hoff => ?_, fun hnot => ?_⟩
  · have hnext : 3 + off.toNat = 2 + off.toNat + 1 := by omega
    rw [exec_rxRd16_within hok (by omega) hfits, completeWith_eq, hnext]
    rfl
  · rw [exec_rxRd16_beyond hok (by omega), raiseCause_eq]
  · rw [exec_rxRd16_of_not_doneOk hnot, raiseCause_eq]

/-- Settles O42: `RX.QTY` answers by `rsp_qty`, whose domain is the table. -/
theorem rxQtyLooksUpLength : Obligations.RxQtyLooksUpLength := by
  intro c s p table
  refine ⟨decodeWord_ofNat_byte (op := 0x26#8) rfl c, fun q hmem => ?known, fun hmem => ?unknown⟩
  case known => rw [exec_rxQty_of_known ((mem_responseTable_iff s.cfg).1 hmem), completeWith_eq]
  case unknown => rw [exec_rxQty_of_unknown ((not_mem_responseCodes_iff s.cfg).1 hmem), raiseCause_eq]

/-- Settles O37: a byte that nothing is armed for is dropped, and only marked. -/
theorem rxByteStray : Obligations.RxByteStray := by
  intro b s ha
  rw [exec_rxByte, offerByte_of_not_armed ha]
  rfl

end Sys2Proof.Machine
end

section
/-! PROOFS of the family 43_control.md: the control commands (spec/43_control.md R200 to R202) and the execution of an illegal
word (R203).

`NOP`, `STAT.RD` and `STAT.CLR` are words of class none, so `decodeWord_none` reads all three. What is left to say of
`STAT.RD` is where each field of `STATUS` stands in the word of R26; what is left of R203 is the way from the port to
`raise`. -/

namespace Sys2Proof.Machine

/-! ### The fields of the status word

R26's layout is a concatenation, so a field is reached by dropping the fields below it and then the fields above it. -/

section StatusWord

variable (st : Status)

/-- R26 without the flags of bits 3..0: the hard-wired zeros and the two causes. -/
theorem Status.toWord_drop_flags {start : Nat} (len : Nat) (hstart : 4 ≤ start) :
    st.toWord.extractLsb' start len = (0#4 ++ st.rxerr.code ++ st.cmderr.code).extractLsb' (start - 2 - 1 - 1) len :=
  calc st.toWord.extractLsb' start len
      = (0#4 ++ st.rxerr.code ++ st.cmderr.code ++ BitVec.ofBool st.errseen ++ BitVec.ofBool st.stray).extractLsb'
          (start - 2) len := BitVec.extractLsb'_append_eq_of_le (by omega)
    _ = (0#4 ++ st.rxerr.code ++ st.cmderr.code ++ BitVec.ofBool st.errseen).extractLsb' (start - 2 - 1) len :=
        BitVec.extractLsb'_append_eq_of_le (by omega)
    _ = _ := BitVec.extractLsb'_append_eq_of_le (by omega)

/-- R26, bits 15..12: hard-wired. -/
theorem Status.toWord_reserved : st.toWord.extractLsb' 12 4 = 0#4 :=
  calc st.toWord.extractLsb' 12 4
      = (0#4 ++ st.rxerr.code ++ st.cmderr.code).extractLsb' 8 4 := st.toWord_drop_flags 4 (by decide)
    _ = (0#4 ++ st.rxerr.code).extractLsb' 4 4 := BitVec.extractLsb'_append_eq_of_le (by decide)
    _ = 0#4 := BitVec.extractLsb'_append_eq_left

/-- R26, bits 11..8. -/
theorem Status.toWord_rxerr : st.toWord.extractLsb' 8 4 = st.rxerr.code :=
  calc st.toWord.extractLsb' 8 4
      = (0#4 ++ st.rxerr.code ++ st.cmderr.code).extractLsb' 4 4 := st.toWord_drop_flags 4 (by decide)
    _ = (0#4 ++ st.rxerr.code).extractLsb' 0 4 := BitVec.extractLsb'_append_eq_of_le (by decide)
    _ = st.rxerr.code := BitVec.extractLsb'_append_eq_right

/-- R26, bits 7..4. -/
theorem Status.toWord_cmderr : st.toWord.extractLsb' 4 4 = st.cmderr.code :=
  (st.toWord_drop_flags 4 (le_refl 4)).trans BitVec.extractLsb'_append_eq_right

/-- R26, bit 3. -/
theorem Status.toWord_errseen : st.toWord.getLsbD 3 = st.errseen := by
  rw [Status.toWord, BitVec.getLsbD_append, BitVec.getLsbD_append, BitVec.getLsbD_append]
  simp

/-- R26, bit 2. -/
theorem Status.toWord_stray : st.toWord.getLsbD 2 = st.stray := by
  rw [Status.toWord, BitVec.getLsbD_append, BitVec.getLsbD_append]
  simp

/-- R26, bits 1..0. -/
theorem Status.toWord_rxst : st.toWord.extractLsb' 0 2 = st.rxst.code :=
  BitVec.extractLsb'_append_eq_right

end StatusWord

/-! ### The meaning of the control commands -/

theorem exec_nop (s : State) : exec .nop s = .next s := rfl

theorem exec_statRd (s : State) : exec .statRd s = .next { s with res := s.status.toWord } := rfl

theorem exec_statClr (s : State) :
    exec .statClr s = .next (completeWith 0x0000#16 { s with status := s.status.clearSticky }) := rfl

/-- The two sticky flags cleared, and nothing else of `STATUS` (R202). -/
theorem Status.clearSticky_eq (st : Status) : st.clearSticky = { st with stray := false, errseen := false } := rfl

/-! ### The way of an illegal word -/

/-- Taking the oldest input takes it off the port and changes nothing else (R204). -/
theorem takeInput_of_port {s : State} {e : PortEvent} {rest : List PortEvent} (hport : s.port = e :: rest) :
    takeInput s = some (e, { s with port := rest }) := by
  simp only [takeInput, hport]

/-- An illegal word stays illegal under every configuration: the parameters shape frames only. -/
theorem decode_word_of_error {w : CmdWord} {why : Illegal} (hw : decodeWord w = .error why) (p : Params) :
    decode p (.word w) = .error (.illegal why) := by
  simp only [decode, hw]

/-- An input that is no instruction is taken, and what becomes of it is `runRejected`. -/
theorem step_of_reject {s : State} {e : Encoded} {rest : List PortEvent} {why : Reject}
    (hport : s.port = .present e :: rest) (hdecode : decode s.cfg.params e = .error why) :
    step s = runRejected why { s with port := rest } := by
  simp only [step, takeInput_of_port hport, hdecode]

/-- R203: whatever the opcode or the operand at fault, an illegal word raises ILLEGAL_COMMAND. -/
theorem runRejected_illegal (why : Illegal) (s : State) :
    runRejected (.illegal why) s = .next (raiseCause .illegalCommand s) := rfl

/-! ### The obligations -/

/-- Settles O15: the word is taken and rejected, and `raise` is written out. -/
theorem illegalWordRaises : Obligations.IllegalWordRaises := by
  intro s w rest why hport hw
  rw [step_of_reject hport (decode_word_of_error hw s.cfg.params), runRejected_illegal, raiseCause_eq]

/-- Settles O20: the all-zero word is opcode 0x00 of class none with its operand 0. -/
theorem nopChangesNothing : Obligations.NopChangesNothing :=
  ⟨decodeWord_none (op := 0x00#8) rfl, exec_nop⟩

/-- Settles O21: the value read is the status word, taken apart by the layout of R26. -/
theorem statRdReadsStatus : Obligations.StatRdReadsStatus :=
  ⟨decodeWord_none (op := 0x30#8) rfl, fun s => ⟨s.status.toWord, exec_statRd s, s.status.toWord_reserved,
    s.status.toWord_rxerr, s.status.toWord_cmderr, s.status.toWord_errseen, s.status.toWord_stray, s.status.toWord_rxst⟩⟩

/-- Settles O22: the sticky flags are cleared, and completing the command clears `CMDERR` besides. -/
theorem statClrClearsSticky : Obligations.StatClrClearsSticky :=
  ⟨decodeWord_none (op := 0x31#8) rfl, fun s => by rw [exec_statClr, completeWith_eq, Status.clearSticky_eq]⟩

end Sys2Proof.Machine
end

section
/-! PROOFS of the family 60_exceptions.md: a failing command is precise (spec/60_exceptions.md R222, R223).

`exec_effect` lists all that an instruction can do. A command that writes `CMDERR` leaves the cause 0 in it or is a `raise`:
there is no third way, so the cause that is left tells the two apart. -/

namespace Sys2Proof.Machine

/-- A whole frame is no command: it leaves `CMDERR` (log entries 4 and 5). -/
theorem keepsCmdErr_of_isFrame {i : Instr} (h : isFrame i = true) : keepsCmdErr i = true := by
  cases i with
  | reqStatus1 | reqStatus2 | reqStatus3 | reqSetValue | rspStatus1 | rspStatus2 | rspStatus3 | rspSetValueAck => rfl
  | _ => cases h

/-- R222, R223: a command that writes `CMDERR` succeeds, leaving 0 there, or raises a cause and does nothing else. -/
theorem exec_succeeds_or_raises {i : Instr} {s t : State} (hexec : exec i s = .next t) (hk : keepsCmdErr i = false) :
    t.status.cmderr = .none ∨ ∃ e, t = raiseCause e s := by
  cases exec_effect hexec with
  | nop | statRd => cases hk
  | statClr | csumClr | csumAdd | read | serialized | armed | aborted => exact .inl rfl
  | failed i e => exact .inr ⟨e, rfl⟩
  | byte b t ho hf hnone => exact .inl hnone
  | issued i is hframe => exact absurd (keepsCmdErr_of_isFrame hframe) (Bool.eq_false_iff.1 hk)

/-- Settles O49: a command that leaves a cause has not succeeded, so it is a `raise` (`exec_succeeds_or_raises`), and the
cause it leaves is the one raised. -/
theorem failingCommandIsPrecise : Obligations.FailingCommandIsPrecise := by
  intro i s t hexec hk hfail
  obtain ⟨e, rfl⟩ := (exec_succeeds_or_raises hexec hk).resolve_left hfail
  rw [raiseCause_status, Status.fail_cmderr, raiseCause_eq]

end Sys2Proof.Machine
end

section
/-! PROOFS of the family 70_reset_and_hazards.md: the reset event and the state right after it (spec/70_reset_and_hazards.md
R250, R251).

`step_of_reset` says that a reset event leads to `State.resetWith`, whose fields the family 10_state.md has read. In that
state nothing is built and nothing is armed, and `RES` and `CMDERR` are 0 already, so a refused command and a stray byte show
in `STATUS` only. -/

namespace Sys2Proof.Machine

/-! ### The reset event -/

/-- R250: the reset event is taken from the port, and one step leads to the reset state; the parameters stay (R253), and so do
the inputs behind the event (log entry 12). -/
theorem step_of_reset {s : State} {rest : List PortEvent} (hport : s.port = .reset :: rest) :
    step s = .next (State.resetWith s.cfg rest) := by
  simp only [step, takeInput_of_port hport, assertReset]

/-- Settles O16: the step leads to the reset state, and each value is that of its field there. -/
theorem resetEventSetsResetValues : Obligations.ResetEventSetsResetValues := by
  intro s rest hport
  exact ⟨State.resetWith s.cfg rest, step_of_reset hport, resetWith_acc _ _, resetWith_res _ _, resetWith_txlen _ _,
    resetWith_rxexpcode _ _, resetWith_rxexpqty _ _, resetWith_rxcnt _ _, resetWith_rxacc _ _,
    resetWith_status_toWord _ _, congrArg Status.rxst (resetWith_status _ _), resetWith_txbuf_read _ _,
    resetWith_rxbuf_read _ _⟩

/-! ### Right after reset -/

section AfterReset

variable {s : State}

/-- A failing command shows in `STATUS` only, where `RES` is 0 already (R223). -/
theorem raiseCause_of_res_zero (hres : s.res = 0x0000#16) (e : Cause) :
    raiseCause e s = { s with status := { s.status with cmderr := e, errseen := true } } := by
  rw [raiseCause_eq, ← hres]

/-- A stray byte shows in `STRAY` only, where `RES` and `CMDERR` are 0 already (R171). -/
theorem dropStray_of_res_cmderr_zero (hres : s.res = 0x0000#16) (hcmd : s.status.cmderr = .none) :
    dropStray s = { s with status := { s.status with stray := true } } := by
  rw [dropStray, completeWith_eq, ← hres, ← hcmd]
  rfl

end AfterReset

/-- After reset no frame is outstanding and none is held (R251). -/
theorem resetWith_rxst (c : Config) (es : List PortEvent) : (State.resetWith c es).status.rxst = .idle := by
  rw [resetWith_status, Status.reset]

/-- Settles O19: `TXLEN` = 0 leaves no offset to read, and IDLE is neither ARMED nor a DONE state; each command then has the
outcome of its rule (R143, R171, R173 to R175) in a state whose `RES` and `CMDERR` are 0. -/
theorem afterResetNothingIsHeld : Obligations.AfterResetNothingIsHeld := by
  intro cfg port b s
  have hres : s.res = 0x0000#16 := resetWith_res cfg port
  have hcmd : s.status.cmderr = .none := congrArg Status.cmderr (resetWith_status cfg port)
  have htxlen : s.txlen.toNat ≤ b.toNat := Nat.zero_le _
  have hidle : s.status.rxst = .idle := resetWith_rxst cfg port
  refine ⟨?txRd, ?rxByte, ?rxHdr, ?rxRd, ?rxRd16⟩
  case txRd => rw [exec_txRd_above htxlen, raiseCause_of_res_zero hres]
  case rxByte => rw [exec_rxByte, offerByte_of_not_armed (by simp [hidle]), dropStray_of_res_cmderr_zero hres hcmd]
  case rxHdr => rw [exec_rxHdr_of_not_done (by simp [hidle]), raiseCause_of_res_zero hres]
  case rxRd => rw [exec_rxRd_of_not_doneOk (by simp [hidle]), raiseCause_of_res_zero hres]
  case rxRd16 => rw [exec_rxRd16_of_not_doneOk (by simp [hidle]), raiseCause_of_res_zero hres]

end Sys2Proof.Machine
end

section
/-! PROOFS of the family other, encoding: decoding and encoding undo each other (spec/30_encoding.md R70 to R76, R82), and
which words are illegal (R83, R84).

Both directions go by the operand class of the opcode for a command, and by the code byte for a frame. The codes are distinct
(R7(a)), so a code names one frame kind within a direction; the body of a response is read in both directions by one
equivalence, `decodeResponseBody_eq_ok_iff`. -/

namespace Sys2Proof.Machine

/-! ### Presenting a word or a frame -/

theorem decode_word_of_ok {w : CmdWord} {i : Instr} (hw : decodeWord w = .ok i) (p : Params) :
    decode p (.word w) = .ok i := by
  simp only [decode, hw]

theorem decode_word_eq_ok_iff {p : Params} {w : CmdWord} {i : Instr} :
    decode p (.word w) = .ok i ↔ decodeWord w = .ok i := by
  cases hw : decodeWord w <;> simp [decode, hw]

theorem decode_frame_eq_ok_iff {p : Params} {dir : Direction} {bs : List Byte} {i : Instr} :
    decode p (.frame dir bs) = .ok i ↔ decodeFrame p dir bs = .ok i := by
  cases hf : decodeFrame p dir bs <;> simp [decode, hf]

/-! ### Command words -/

/-- R82: what the opcode map says of an opcode is what the encoder writes for the commands it spells. -/
def Form.EncodedBy (p : Params) (op : Byte) : Form → Prop
  | .none i => encode p i = .word (cmdWord op 0#16) ∧ WellFormed p i = true
  | .byte f => ∀ b, encode p (f b) = .word (cmdWord op (byteArg b)) ∧ WellFormed p (f b) = true
  | .half f => ∀ x, encode p (f x) = .word (cmdWord op x) ∧ WellFormed p (f x) = true

/-- Row by row of the opcode map. -/
theorem encodedBy_of_opcodeForm (p : Params) {op : Byte} {form : Form} (hop : opcodeForm op = some form) :
    form.EncodedBy p op := by
  have hnum : op = BitVec.ofNat 8 op.toNat := by simp
  rw [hnum]
  unfold opcodeForm at hop
  generalize op.toNat = n at hop
  split at hop <;> cases hop <;> simp [Form.EncodedBy, encode, WellFormed]

/-- R82, R83: a legal word is the word of the command it decodes to. -/
theorem encode_of_decodeWord (p : Params) {w : CmdWord} {i : Instr} (hw : decodeWord w = .ok i) :
    encode p i = .word w ∧ WellFormed p i = true := by
  rw [← cmdWord_parts w] at hw ⊢
  cases hform : opcodeForm (opOf w) with
  | none => simp [decodeWord_reserved hform] at hw
  | some form =>
    have hencoded := encodedBy_of_opcodeForm p hform
    cases form with
    | none i' =>
      by_cases harg : argOf w = 0#16
      · rw [harg, decodeWord_none hform] at hw
        cases hw
        rw [harg]
        exact hencoded
      · simp [decodeWord_none_operandBits hform harg] at hw
    | byte f =>
      by_cases hhigh : (argOf w).extractLsb' 8 8 = 0#8
      · rw [← byteArg_of_high hhigh, decodeWord_byte hform] at hw
        cases hw
        rw [← byteArg_of_high hhigh]
        simpa using hencoded ((argOf w).extractLsb' 0 8)
      · simp [decodeWord_byte_operandBits hform hhigh] at hw
    | half f =>
      rw [decodeWord_half hform] at hw
      cases hw
      exact hencoded (argOf w)

/-! ### Illegal words -/

/-- R84, reserved opcodes. -/
theorem opcodeForm_eq_none_iff (op : Byte) :
    opcodeForm op = none ↔ (0x06 ≤ op.toNat ∧ op.toNat ≤ 0x0F) ∨ (0x14 ≤ op.toNat ∧ op.toNat ≤ 0x1F) ∨
      (0x27 ≤ op.toNat ∧ op.toNat ≤ 0x2F) ∨ (0x32 ≤ op.toNat ∧ op.toNat ≤ 0xFF) := by
  have hlt := op.isLt
  unfold opcodeForm
  generalize op.toNat = n at hlt ⊢
  split
  -- the opcodes that no row lists
  case h_20 => simp only [imp_false] at *; simp only [true_iff]; omega
  all_goals simp

/-- R82, the opcodes of class none. -/
theorem opcodeForm_noneClass_iff (op : Byte) :
    (∃ i, opcodeForm op = some (.none i)) ↔
      op.toNat ∈ [0x00, 0x01, 0x03, 0x04, 0x12, 0x22, 0x23, 0x30, 0x31] := by
  unfold opcodeForm
  split <;> simp_all

/-- R82, the opcodes of class byte. -/
theorem opcodeForm_byteClass_iff (op : Byte) :
    (∃ f, opcodeForm op = some (.byte f)) ↔
      op.toNat ∈ [0x02, 0x05, 0x10, 0x13, 0x20, 0x21, 0x24, 0x25, 0x26] := by
  unfold opcodeForm
  split <;> simp_all

/-- R83, R84: the three ways of an illegal word. -/
theorem decodeWord_eq_error_iff (w : CmdWord) :
    (∃ why, decodeWord w = .error why) ↔
      opcodeForm (opOf w) = none ∨
      ((∃ i, opcodeForm (opOf w) = some (.none i)) ∧ argOf w ≠ 0#16) ∨
      ((∃ f, opcodeForm (opOf w) = some (.byte f)) ∧ (argOf w).extractLsb' 8 8 ≠ 0#8) := by
  unfold decodeWord
  cases opcodeForm (opOf w) with
  | none => simp
  | some form =>
    cases form with
    | none i => by_cases harg : argOf w = 0#16 <;> simp [harg]
    | byte f => by_cases hhigh : (argOf w).extractLsb' 8 8 = 0#8 <;> simp [hhigh]
    | half f => simp

/-- R80: opcode and operand of a word as numbers. -/
theorem opOf_toNat (w : CmdWord) : (opOf w).toNat = w.toNat / 65536 := by
  have hlt := w.isLt
  rw [opOf, BitVec.extractLsb'_toNat, Nat.shiftRight_eq_div_pow]
  omega

theorem argOf_toNat (w : CmdWord) : (argOf w).toNat = w.toNat % 65536 := by
  rw [argOf, BitVec.extractLsb'_toNat, Nat.shiftRight_zero]

theorem extractHigh_eq_zero_iff (arg : Half) : arg.extractLsb' 8 8 = 0#8 ↔ arg.toNat / 256 = 0 := by
  have hlt := arg.isLt
  rw [← BitVec.toNat_inj, BitVec.extractLsb'_toNat, Nat.shiftRight_eq_div_pow]
  simp only [BitVec.toNat_ofNat]
  omega

/-- Settles O12: the three ways of `decodeWord_eq_error_iff`, each with its opcodes as numbers. -/
theorem illegalWordsAreTheReservedOnes : Obligations.IllegalWordsAreTheReservedOnes := by
  intro w op arg
  have hop : (opOf w).toNat = op := opOf_toNat w
  have harg : (argOf w).toNat = arg := argOf_toNat w
  have hzero : argOf w = 0#16 ↔ arg = 0 := by rw [← BitVec.toNat_inj, harg]; rfl
  rw [decodeWord_eq_error_iff, opcodeForm_eq_none_iff, opcodeForm_noneClass_iff, opcodeForm_byteClass_iff, ne_eq,
    ne_eq, extractHigh_eq_zero_iff, hzero, hop, harg]

/-! ### Request frames -/

/-- R72, R76: a status request frame is read by its code. -/
theorem decodeRequest_statusRequestFrame {p : Params} {c : Byte} (hc : c ≠ p.setValueCode) :
    decodeRequest p (statusRequestFrame p c) =
      if c = p.status1Code then .ok .reqStatus1
      else if c = p.status2Code then .ok .reqStatus2
      else if c = p.status3Code then .ok .reqStatus3
      else .error (.code c) := by
  simp [decodeRequest, statusRequestFrame, withChecksum, hc]

/-- R73, R77: a throttle command frame holds the scaled throttle, a multiple of the factor. -/
theorem decodeRequest_throttleFrame {p : Params} {x : Half} (hc : p.setValueCode ≠ p.status1Code)
    (hmul : x.toNat % p.thrFactor = 0) :
    decodeRequest p (throttleFrame p x) = .ok (.reqSetValue (BitVec.ofNat 16 (x.toNat / p.thrFactor))) := by
  simp [decodeRequest, throttleFrame, withChecksum, hc, half_parts, hmul]

/-- All that a request decodes to (R72, R73). -/
theorem decodeRequest_cases {p : Params} {bs : List Byte} {i : Instr} (h : decodeRequest p bs = .ok i) :
    (i = .reqStatus1 ∧ bs = statusRequestFrame p p.status1Code) ∨
    (i = .reqStatus2 ∧ bs = statusRequestFrame p p.status2Code) ∨
    (i = .reqStatus3 ∧ bs = statusRequestFrame p p.status3Code) ∨
    (∃ x : Half, x.toNat % p.thrFactor = 0 ∧ i = .reqSetValue (BitVec.ofNat 16 (x.toNat / p.thrFactor)) ∧
      bs = throttleFrame p x) := by
  unfold decodeRequest at h
  split at h
  · dsimp only at h
    split_ifs at h with h1 hqty hframe hv hqty hframe h2 hqty hframe h3 hqty hframe <;> cases h
    · exact .inl ⟨rfl, h1 ▸ hframe⟩
    · obtain ⟨hbytes, hmul⟩ := hframe
      exact .inr (.inr (.inr ⟨_, hmul, rfl, hbytes⟩))
    · exact .inr (.inl ⟨rfl, h2 ▸ hframe⟩)
    · exact .inr (.inr (.inl ⟨rfl, h3 ▸ hframe⟩))
  · cases h

/-! ### Response frames -/

theorem payloadFits_iff {q : Byte} {payload : List Byte} : payloadFits q payload = true ↔ payload.length + 3 = q.toNat :=
  decide_eq_true_iff

/-- R71, R74: the body of a response is its payload and its checksum byte, and every such body is read back. -/
theorem decodeResponseBody_eq_ok_iff {expected q : Byte} {rest : List Byte} {f : List Byte → Byte → Instr} {i : Instr}
    (hmin : 3 ≤ expected.toNat) :
    decodeResponseBody expected q rest f = .ok i ↔
      q = expected ∧ ∃ payload k, payloadFits expected payload = true ∧ rest = payload ++ [k] ∧ i = f payload k := by
  unfold decodeResponseBody
  simp only [payloadFits_iff]
  constructor
  · intro h
    split_ifs at h with hq hlen
    cases h
    obtain rfl := not_not.1 hq
    have hne : rest ≠ [] := List.ne_nil_of_length_pos (by omega)
    refine ⟨rfl, rest.dropLast, rest.getLastD 0x00#8, ?_, ?_, rfl⟩
    · rw [List.length_dropLast]; omega
    · rw [List.getLastD_eq_getLast?, List.getLast?_eq_some_getLast hne, Option.getD_some, List.dropLast_append_getLast]
  · rintro ⟨rfl, payload, k, hlen, rfl, rfl⟩
    rw [if_neg (not_not.2 rfl), if_neg (by simp; omega), List.dropLast_concat, List.getLastD_concat]

/-- R74, R75: a response decodes only if it is the encoding of what it decodes to. -/
theorem encode_of_decodeResponse {cfg : Config} {bs : List Byte} {i : Instr} (h : decodeResponse cfg.params bs = .ok i) :
    encode cfg.params i = .frame .response bs ∧ WellFormed cfg.params i = true := by
  obtain ⟨-, -, -, hmin1, hmin2, hmin3, hminAck⟩ := Config.facts cfg
  unfold decodeResponse at h
  split at h
  case h_2 => cases h
  split_ifs at h with h1 hv hack h2 h3
  · obtain ⟨rfl, payload, k, hfits, rfl, rfl⟩ := (decodeResponseBody_eq_ok_iff hmin1).1 h
    exact ⟨by rw [h1]; rfl, hfits⟩
  · obtain ⟨rfl, payload, k, hfits, rfl, rfl⟩ := (decodeResponseBody_eq_ok_iff hminAck).1 h
    have hqty : cfg.params.rspQtyAck.toNat = 3 := of_decide_eq_true hack
    have hlen := payloadFits_iff.1 hfits
    obtain rfl : payload = [] := List.eq_nil_of_length_eq_zero (by omega)
    exact ⟨by rw [hv]; rfl, hack⟩
  · obtain ⟨rfl, payload, k, hfits, rfl, rfl⟩ := (decodeResponseBody_eq_ok_iff hmin2).1 h
    exact ⟨by rw [h2]; rfl, hfits⟩
  · obtain ⟨rfl, payload, k, hfits, rfl, rfl⟩ := (decodeResponseBody_eq_ok_iff hmin3).1 h
    exact ⟨by rw [h3]; rfl, hfits⟩

/-! ### The two directions for a frame -/

/-- R77: the scaled value of a throttle in the domain fits its 16 bits. -/
theorem scaled_toNat {p : Params} {raw : Half} (hfits : throttleFits p raw = true) :
    (BitVec.ofNat 16 (raw.toNat * p.thrFactor)).toNat = raw.toNat * p.thrFactor := by
  have hle : raw.toNat * p.thrFactor ≤ 0xFFFF := of_decide_eq_true hfits
  rw [BitVec.toNat_ofNat]
  omega

/-- R77: the throttle read from a frame scales to the value in the frame. -/
theorem unscaled_toNat_mul {p : Params} {x : Half} (hmul : x.toNat % p.thrFactor = 0) :
    (BitVec.ofNat 16 (x.toNat / p.thrFactor)).toNat * p.thrFactor = x.toNat := by
  have hlt : x.toNat / p.thrFactor < 2 ^ 16 := (Nat.div_le_self _ _).trans_lt x.isLt
  rw [BitVec.toNat_ofNat, Nat.mod_eq_of_lt hlt, Nat.div_mul_cancel (Nat.dvd_of_mod_eq_zero hmul)]

/-- R73: the throttle command frame of a throttle in the domain. -/
theorem decodeRequest_of_throttleFits {cfg : Config} {raw : Half} (hfits : throttleFits cfg.params raw = true) :
    decodeRequest cfg.params (throttleFrame cfg.params (BitVec.ofNat 16 (raw.toNat * cfg.params.thrFactor))) =
      .ok (.reqSetValue raw) := by
  obtain ⟨-, -, hfactor, -⟩ := Config.facts cfg
  obtain ⟨-, -, h1v, -, -, -⟩ := Config.codes_distinct cfg
  have hmul : (BitVec.ofNat 16 (raw.toNat * cfg.params.thrFactor)).toNat % cfg.params.thrFactor = 0 := by
    rw [scaled_toNat hfits, Nat.mul_mod_left]
  rw [decodeRequest_throttleFrame h1v.symm hmul, scaled_toNat hfits, Nat.mul_div_cancel _ hfactor]
  simp

/-- R72, R73: a request decodes only if it is the encoding of what it decodes to. -/
theorem encode_of_decodeRequest {p : Params} {bs : List Byte} {i : Instr} (h : decodeRequest p bs = .ok i) :
    encode p i = .frame .request bs ∧ WellFormed p i = true := by
  obtain ⟨rfl, rfl⟩ | ⟨rfl, rfl⟩ | ⟨rfl, rfl⟩ | ⟨x, hmul, rfl, rfl⟩ := decodeRequest_cases h
  · exact ⟨rfl, rfl⟩
  · exact ⟨rfl, rfl⟩
  · exact ⟨rfl, rfl⟩
  · have hscaled := unscaled_toNat_mul hmul
    have hlt := x.isLt
    constructor
    · rw [encode, hscaled, BitVec.ofNat_toNat, BitVec.setWidth_eq]
    · rw [WellFormed, throttleFits, hscaled]
      exact decide_eq_true (by omega)

/-! ### The obligations -/

/-- Settles O10: a command by the class of its opcode, a frame by its code. -/
theorem decodeOfEncode : Obligations.DecodeOfEncode := by
  intro cfg i hwf
  obtain ⟨-, -, -, hmin1, hmin2, hmin3, hminAck⟩ := Config.facts cfg
  obtain ⟨h12, h13, h1v, h23, h2v, h3v⟩ := Config.codes_distinct cfg
  cases i with
  | nop | csumClr | csumRd | csumGen | txLen | rxAbort | rxHdr | statRd | statClr =>
    exact decode_word_of_ok (decodeWord_none rfl) _
  | csumAdd b | csumChk b | txStatus b | txRd b | rxArm b | rxByte b | rxRd b | rxRd16 b | rxQty b =>
    exact decode_word_of_ok (decodeWord_byte rfl b) _
  | txThr raw => exact decode_word_of_ok (decodeWord_half rfl raw) _
  | reqStatus1 => exact decode_frame_eq_ok_iff.2 ((decodeRequest_statusRequestFrame h1v).trans (if_pos rfl))
  | reqStatus2 =>
    refine decode_frame_eq_ok_iff.2 ((decodeRequest_statusRequestFrame h2v).trans ?_)
    rw [if_neg h12.symm, if_pos rfl]
  | reqStatus3 =>
    refine decode_frame_eq_ok_iff.2 ((decodeRequest_statusRequestFrame h3v).trans ?_)
    rw [if_neg h13.symm, if_neg h23.symm, if_pos rfl]
  | reqSetValue raw => exact decode_frame_eq_ok_iff.2 (decodeRequest_of_throttleFits hwf)
  | rspStatus1 payload k =>
    refine decode_frame_eq_ok_iff.2 ((if_pos rfl).trans ?_)
    exact (decodeResponseBody_eq_ok_iff hmin1).2 ⟨rfl, payload, k, hwf, rfl, rfl⟩
  | rspStatus2 payload k =>
    refine decode_frame_eq_ok_iff.2 ((if_neg h12.symm).trans ((if_neg h2v).trans ((if_pos rfl).trans ?_)))
    exact (decodeResponseBody_eq_ok_iff hmin2).2 ⟨rfl, payload, k, hwf, rfl, rfl⟩
  | rspStatus3 payload k =>
    refine decode_frame_eq_ok_iff.2
      ((if_neg h13.symm).trans ((if_neg h3v).trans ((if_neg h23.symm).trans ((if_pos rfl).trans ?_))))
    exact (decodeResponseBody_eq_ok_iff hmin3).2 ⟨rfl, payload, k, hwf, rfl, rfl⟩
  | rspSetValueAck k =>
    have hqty : cfg.params.rspQtyAck.toNat = 3 := of_decide_eq_true hwf
    refine decode_frame_eq_ok_iff.2 ((if_neg h1v.symm).trans ((if_pos rfl).trans ((if_pos hwf).trans ?_)))
    exact (decodeResponseBody_eq_ok_iff hminAck).2 ⟨rfl, [], k, payloadFits_iff.2 hqty.symm, rfl, rfl⟩

/-- Settles O11: a word by its parts, a frame by its direction. -/
theorem encodeOfDecode : Obligations.EncodeOfDecode := by
  intro cfg e i hdecode
  cases e with
  | word w => exact encode_of_decodeWord cfg.params (decode_word_eq_ok_iff.1 hdecode)
  | frame dir bs =>
    have hframe := decode_frame_eq_ok_iff.1 hdecode
    cases dir with
    | request => exact encode_of_decodeRequest hframe
    | response => exact encode_of_decodeResponse hframe

end Sys2Proof.Machine
end

section
/-! PROOFS of the family other, access: what each instruction can leave in each register (spec/10_state.md R33,
spec/60_exceptions.md R221), and what follows of sticky flags (R28, R29), held frames (R61), `ACC` (R22) and reads (R56).

Each row of the access table is one lemma, a case analysis on `exec_effect`: the constructors that could change the register
are those of the instructions that the table names. -/

namespace Sys2Proof.Machine

/-! ### Which instructions are commands, and their causes -/

theorem writesCmdErr_of_writesTx {i : Instr} (hw : writesTx i = true) : keepsCmdErr i = false := by
  cases i with
  | txStatus | txThr => rfl
  | _ => cases hw

/-- R221: every cause of a command is a cause that `CMDERR` can hold after a failure. -/
theorem possibleCauses_subset {i : Instr} {e : Cause} (he : e ∈ possibleCauses i) :
    e ∈ [Cause.illegalCommand, .badCode, .busy, .notReady, .range] := by
  have hsub : possibleCauses i ⊆ [Cause.illegalCommand, .badCode, .busy, .notReady, .range] := by
    cases i <;> simp [possibleCauses]
  exact hsub he

/-- No command raises NONE. -/
theorem ne_none_of_mem_possibleCauses {i : Instr} {e : Cause} (he : e ∈ possibleCauses i) : e ≠ .none := by
  rintro rfl
  exact absurd (possibleCauses_subset he) (by decide)

/-! ### The rows of the access table (R33) -/

section Rows

variable {i : Instr} {s t : State}

theorem exec_cfg (hexec : exec i s = .next t) : t.cfg = s.cfg := by
  cases exec_effect hexec with
  | byte b t ho hf => exact hf.cfg
  | _ => rfl

theorem exec_port_of_not_isFrame (hexec : exec i s = .next t) (hi : isFrame i = false) : t.port = s.port := by
  cases exec_effect hexec with
  | byte b t ho hf => exact hf.port
  | issued i is hframe => exact absurd hframe (Bool.eq_false_iff.1 hi)
  | _ => rfl

theorem exec_eq_of_isFrame (hexec : exec i s = .next t) (hi : isFrame i = true) : t = { s with port := t.port } := by
  have hk := keepsCmdErr_of_isFrame hi
  cases exec_effect hexec with
  | issued | nop => rfl
  | read i v hr hw | failed i e he hw => exact absurd hk (Bool.eq_false_iff.1 hw)
  | serialized i f n hw => exact absurd hk (Bool.eq_false_iff.1 (writesCmdErr_of_writesTx hw))
  | _ => cases hi

theorem exec_acc (hexec : exec i s = .next t) (hi : writesAcc i = false) : t.acc = s.acc := by
  cases exec_effect hexec with
  | csumClr | csumAdd => cases hi
  | byte b t ho hf => exact hf.acc
  | _ => rfl

theorem exec_tx (hexec : exec i s = .next t) (hi : writesTx i = false) : t.txbuf = s.txbuf ∧ t.txlen = s.txlen := by
  cases exec_effect hexec with
  | serialized i f n hw => exact absurd hw (Bool.eq_false_iff.1 hi)
  | byte b t ho hf => exact ⟨hf.txbuf, hf.txlen⟩
  | _ => exact ⟨rfl, rfl⟩

theorem exec_expected (hexec : exec i s = .next t) (hi : writesExpected i = false) :
    t.rxexpcode = s.rxexpcode ∧ t.rxexpqty = s.rxexpqty := by
  cases exec_effect hexec with
  | armed => cases hi
  | byte b t ho hf => exact ⟨hf.rxexpcode, hf.rxexpqty⟩
  | _ => exact ⟨rfl, rfl⟩

theorem exec_rx (hexec : exec i s = .next t) (hi : writesRx i = false) :
    t.rxcnt = s.rxcnt ∧ t.rxacc = s.rxacc ∧ t.rxbuf = s.rxbuf ∧ t.status.rxst = s.status.rxst ∧
      t.status.rxerr = s.status.rxerr := by
  cases exec_effect hexec with
  | armed | aborted | byte => cases hi
  | _ => exact ⟨rfl, rfl, rfl, rfl, rfl⟩

theorem exec_stray (hexec : exec i s = .next t) (hi : writesStray i = false) : t.status.stray = s.status.stray := by
  cases exec_effect hexec with
  | statClr | byte => cases hi
  | aborted => exact Status.abort_stray s.status
  | _ => rfl

theorem exec_cmderr_errseen (hexec : exec i s = .next t) (hi : keepsCmdErr i = true) :
    t.status.cmderr = s.status.cmderr ∧ t.status.errseen = s.status.errseen := by
  cases exec_effect hexec with
  | nop | statRd | issued => exact ⟨rfl, rfl⟩
  | read i v hr hw | failed i e he hw => exact absurd hi (Bool.eq_false_iff.1 hw)
  | serialized i f n hw => exact absurd hi (Bool.eq_false_iff.1 (writesCmdErr_of_writesTx hw))
  | _ => cases hi

/-- R222: a command that succeeds keeps `ERRSEEN`, except those that write it on success. -/
theorem exec_errseen_of_success (hexec : exec i s = .next t) (hi : writesErrSeen i = false)
    (hsuccess : t.status.cmderr = .none) : t.status.errseen = s.status.errseen := by
  cases exec_effect hexec with
  | statClr | aborted | byte => cases hi
  | failed i e he => exact absurd hsuccess (ne_none_of_mem_possibleCauses he)
  | _ => rfl

/-- R221: a command succeeds or fails with one of its causes. -/
theorem exec_cmderr (hexec : exec i s = .next t) (hi : keepsCmdErr i = false) :
    t.status.cmderr = .none ∨ t.status.cmderr ∈ possibleCauses i := by
  cases exec_effect hexec with
  | nop | statRd => cases hi
  | statClr | csumClr | csumAdd | read | serialized | armed | aborted => exact .inl rfl
  | failed i e he => exact .inr he
  | byte b t ho hf hnone => exact .inl hnone
  | issued i is hframe => exact absurd (keepsCmdErr_of_isFrame hframe) (Bool.eq_false_iff.1 hi)

/-- R29, R228. -/
theorem exec_errseen_stays (hexec : exec i s = .next t) (hi : i ≠ .statClr) (hset : s.status.errseen = true) :
    t.status.errseen = true := by
  cases exec_effect hexec with
  | statClr => exact absurd rfl hi
  | failed => rfl
  | byte b t ho hf => exact hf.errseen hset
  | aborted =>
    obtain ⟨-, habort, -⟩ | ⟨-, habort, -⟩ := Status.abort_cases s.status
    · exact habort
    · exact habort.trans hset
  | _ => exact hset

/-- R28. -/
theorem exec_stray_stays (hexec : exec i s = .next t) (hi : i ≠ .statClr) (hset : s.status.stray = true) :
    t.status.stray = true := by
  cases exec_effect hexec with
  | statClr => exact absurd rfl hi
  | byte b t ho hf => exact hf.stray hset
  | aborted => exact (Status.abort_stray s.status).trans hset
  | _ => exact hset

end Rows

/-- Settles O51: the rows one after the other. -/
theorem registersHaveOnlyTheirWriters : Obligations.RegistersHaveOnlyTheirWriters := by
  intro i s t hexec
  refine ⟨exec_cfg hexec, exec_port_of_not_isFrame hexec, exec_eq_of_isFrame hexec, exec_acc hexec, ?_, exec_tx hexec,
    exec_expected hexec, exec_rx hexec, exec_stray hexec, exec_cmderr_errseen hexec, exec_errseen_of_success hexec⟩
  rintro rfl
  cases hexec
  rfl

/-- Settles O50: `CMDERR` is kept by the row of R33, and written as R221 lists. -/
theorem causesOfEachCommand : Obligations.CausesOfEachCommand := fun _ _ _ hexec =>
  ⟨fun hk => (exec_cmderr_errseen hexec hk).1, exec_cmderr hexec⟩

/-- Settles O53: one lemma for each flag. -/
theorem stickyFlagsStaySet : Obligations.StickyFlagsStaySet := fun _ _ _ hexec hi =>
  ⟨exec_errseen_stays hexec hi, exec_stray_stays hexec hi⟩

/-! ### The deserializer's registers -/

section CountedByte

variable (b : Byte) (s : State)

@[simp] theorem countedByte_cfg : (countedByte b s).cfg = s.cfg := by rw [countedByte_eq]
@[simp] theorem countedByte_rxexpcode : (countedByte b s).rxexpcode = s.rxexpcode := by rw [countedByte_eq]
@[simp] theorem countedByte_rxexpqty : (countedByte b s).rxexpqty = s.rxexpqty := by rw [countedByte_eq]
@[simp] theorem countedByte_rxcnt : (countedByte b s).rxcnt = s.rxcnt + 1#8 := by rw [countedByte_eq]
@[simp] theorem countedByte_status : (countedByte b s).status = s.status := by rw [countedByte_eq]

end CountedByte

/-- The deserializer's registers, and the parameters, are the same in both states. -/
structure SameRx (s t : State) : Prop where
  cfg : t.cfg = s.cfg
  rxexpcode : t.rxexpcode = s.rxexpcode
  rxexpqty : t.rxexpqty = s.rxexpqty
  rxcnt : t.rxcnt = s.rxcnt
  rxacc : t.rxacc = s.rxacc
  rxbuf : t.rxbuf = s.rxbuf
  rxst : t.status.rxst = s.status.rxst
  rxerr : t.status.rxerr = s.status.rxerr

theorem sameRx_port (s : State) (es : List PortEvent) : SameRx s { s with port := es } :=
  ⟨rfl, rfl, rfl, rfl, rfl, rfl, rfl, rfl⟩

theorem sameRx_raiseCause (e : Cause) (s : State) : SameRx s (raiseCause e s) :=
  ⟨rfl, rfl, rfl, rfl, rfl, rfl, rfl, rfl⟩

theorem sameRx_dropStray (s : State) : SameRx s (dropStray s) := ⟨rfl, rfl, rfl, rfl, rfl, rfl, rfl, rfl⟩

/-- R33: an instruction that writes none of them keeps them. -/
theorem sameRx_of_exec {i : Instr} {s t : State} (hexec : exec i s = .next t) (hi : writesRx i = false) : SameRx s t := by
  have hexp : writesExpected i = false := by
    cases i with
    | rxArm c => cases hi
    | _ => rfl
  obtain ⟨hcode, hqty⟩ := exec_expected hexec hexp
  obtain ⟨hcnt, hacc, hbuf, hrxst, hrxerr⟩ := exec_rx hexec hi
  exact ⟨exec_cfg hexec, hcode, hqty, hcnt, hacc, hbuf, hrxst, hrxerr⟩

/-- All that an instruction can do to the deserializer's registers: nothing, or what `RX.ARM` (R168), `RX.ABORT` (R172) and a
byte taken (R170, R169) do. -/
theorem exec_rx_cases {i : Instr} {s t : State} (hexec : exec i s = .next t) :
    SameRx s t ∨
    (∃ c q, i = .rxArm c ∧ rspQty s.cfg.params c = some q ∧ s.status.rxst ≠ .armed ∧ t = armedFor c q s) ∨
    (i = .rxAbort ∧ t = completeWith 0x0000#16 { clearFrame s with status := s.status.abort }) ∨
    (∃ b v, i = .rxByte b ∧ s.status.rxst = .armed ∧ s.rxcnt + 1#8 ≠ s.rxexpqty ∧ t = completeWith v (countedByte b s)) ∨
    (∃ b, i = .rxByte b ∧ s.status.rxst = .armed ∧ s.rxcnt + 1#8 = s.rxexpqty ∧
      t = completeWith 0x0000#16 (judgeFrame (countedByte b s))) := by
  cases hi : writesRx i with
  | false => exact .inl (sameRx_of_exec hexec hi)
  | true =>
    cases i with
    | rxArm c =>
      cases hexec
      obtain ⟨-, h⟩ | ⟨q, -, -, h⟩ | ⟨q, hq, ha, h⟩ := armFor_cases c s
      · exact .inl (h ▸ sameRx_raiseCause .badCode s)
      · exact .inl (h ▸ sameRx_raiseCause .busy s)
      · exact .inr (.inl ⟨c, q, rfl, hq, ha, h⟩)
    | rxAbort =>
      cases hexec
      exact .inr (.inr (.inl ⟨rfl, rfl⟩))
    | rxByte b =>
      cases hexec
      obtain ⟨-, h⟩ | ⟨ha, hmore, h⟩ | ⟨ha, hlast, h⟩ := offerByte_cases b s
      · exact .inl (h ▸ sameRx_dropStray s)
      · exact .inr (.inr (.inr (.inl ⟨b, _, rfl, ha, hmore, h⟩)))
      · exact .inr (.inr (.inr (.inr ⟨b, rfl, ha, hlast, h⟩)))
    | _ => cases hi

/-- Settles O54: without `RX.ARM` and `RX.ABORT` only a byte taken is left, and none is taken while a verdict is held. -/
theorem heldFrameStaysUntilArmOrAbort : Obligations.HeldFrameStaysUntilArmOrAbort := by
  intro i s t hdone hnoArm hnoAbort hexec
  obtain hsame | ⟨c, q, rfl, -⟩ | ⟨rfl, -⟩ | ⟨b, v, -, ha, -⟩ | ⟨b, -, ha, -⟩ := exec_rx_cases hexec
  · exact ⟨hsame.rxbuf, hsame.rxcnt, hsame.rxacc, hsame.rxexpcode, hsame.rxexpqty, hsame.rxst, hsame.rxerr⟩
  · exact absurd rfl (hnoArm c)
  · exact absurd rfl hnoAbort
  all_goals simp [ha] at hdone

/-! ### What a read depends on (R56) -/

/-- Two states that a read cannot tell apart: they agree on the parameters, on the buffers with their lengths and on `RXST`;
on `ACC` as well for a read of the checksum unit. -/
structure SameForRead (i : Instr) (s t : State) : Prop where
  cfg : t.cfg = s.cfg
  acc : usesAcc i = true → t.acc = s.acc
  txbuf : t.txbuf = s.txbuf
  txlen : t.txlen = s.txlen
  rxexpqty : t.rxexpqty = s.rxexpqty
  rxbuf : t.rxbuf = s.rxbuf
  rxst : t.status.rxst = s.status.rxst

theorem SameForRead.refl (i : Instr) (s : State) : SameForRead i s s := ⟨rfl, fun _ => rfl, rfl, rfl, rfl, rfl, rfl⟩

theorem SameForRead.completeWithRead_eq {i : Instr} {s t : State} (h : SameForRead i s t) (sp : Space) (k n : Nat) :
    completeWithRead sp k n t = completeWith (BitVec.ofNat 16 (memRead s sp k n)) t := by
  rw [completeWithRead, memRead_congr h.cfg h.txbuf h.rxbuf]

/-- A read gives one value, or raises one cause, in all states that it cannot tell from `s`. -/
def ReadsUniformly (i : Instr) (s : State) : Prop :=
  (∃ v, ∀ t, SameForRead i s t → exec i t = .next (completeWith v t)) ∨
  (∃ e, ∀ t, SameForRead i s t → exec i t = .next (raiseCause e t))

/-- R56, for every read but `STAT.RD`, which reads `STATUS`. -/
theorem readsUniformly {i : Instr} (hread : isRead i = true) (hstat : i ≠ .statRd) (s : State) : ReadsUniformly i s := by
  cases i with
  | csumRd => exact .inl ⟨_, fun t h => by rw [exec_csumRd, h.acc rfl]⟩
  | csumGen => exact .inl ⟨_, fun t h => by rw [exec_csumGen, h.acc rfl]⟩
  | csumChk c => exact .inl ⟨_, fun t h => by rw [exec_csumChk, h.acc rfl]⟩
  | txLen => exact .inl ⟨_, fun t h => by rw [exec_txLen, h.txlen]⟩
  | txRd k =>
    obtain hbelow | habove := Nat.lt_or_ge k.toNat s.txlen.toNat
    · refine .inl ⟨_, fun t h => (if_neg ?_).trans (congrArg _ (h.completeWithRead_eq .tx k.toNat 1))⟩
      rw [h.txlen]
      omega
    · exact .inr ⟨.range, fun t h => exec_txRd_above (by rwa [h.txlen])⟩
  | rxHdr =>
    by_cases hdone : s.status.rxst.done = true
    · refine .inl ⟨_, fun t h => (if_pos ?_).trans (congrArg _ (h.completeWithRead_eq .rx 0 2))⟩
      rwa [h.rxst]
    · exact .inr ⟨.notReady, fun t h => if_neg (by rwa [h.rxst])⟩
  | rxRd k =>
    by_cases hok : s.status.rxst = .doneOk
    · by_cases hhas : payloadHas s.rxexpqty k.toNat = true
      · refine .inl ⟨_, fun t h => (if_neg ?_).trans ((if_pos ?_).trans
          (congrArg _ (h.completeWithRead_eq .rx (payloadOffset k.toNat) 1)))⟩
        · rwa [h.rxst, not_not]
        · rwa [h.rxexpqty]
      · exact .inr ⟨.range, fun t h => (if_neg (by rwa [h.rxst, not_not])).trans (if_neg (by rwa [h.rxexpqty]))⟩
    · exact .inr ⟨.notReady, fun t h => exec_rxRd_of_not_doneOk (by rwa [h.rxst])⟩
  | rxRd16 off =>
    by_cases hok : s.status.rxst = .doneOk
    · by_cases hhas : payloadHas s.rxexpqty (off.toNat + 1) = true
      · refine .inl ⟨_, fun t h => (if_neg ?_).trans ((if_pos ?_).trans
          (congrArg _ (h.completeWithRead_eq .rx (payloadOffset off.toNat) 2)))⟩
        · rwa [h.rxst, not_not]
        · rwa [h.rxexpqty]
      · exact .inr ⟨.range, fun t h => (if_neg (by rwa [h.rxst, not_not])).trans (if_neg (by rwa [h.rxexpqty]))⟩
    · exact .inr ⟨.notReady, fun t h => exec_rxRd16_of_not_doneOk (by rwa [h.rxst])⟩
  | rxQty c =>
    cases hq : rspQty s.cfg.params c with
    | some q => exact .inl ⟨_, fun t h => exec_rxQty_of_known (h.cfg ▸ hq)⟩
    | none => exact .inr ⟨_, fun t h => exec_rxQty_of_unknown (h.cfg ▸ hq)⟩
  | statRd => exact absurd rfl hstat
  | _ => cases hread

/-- What a read does in `s`, it does in every state that it cannot tell from `s`. -/
theorem exec_read_of_same {i : Instr} {s t u : State} (hread : isRead i = true) (hstat : i ≠ .statRd)
    (hexec : exec i s = .next t) (hsame : SameForRead i s u) :
    (∃ v, t = completeWith v s ∧ exec i u = .next (completeWith v u)) ∨
    (∃ e, t = raiseCause e s ∧ exec i u = .next (raiseCause e u)) := by
  obtain ⟨v, huniform⟩ | ⟨e, huniform⟩ := readsUniformly hread hstat s
  · cases hexec.symm.trans (huniform s (.refl i s))
    exact .inl ⟨v, rfl, huniform u hsame⟩
  · cases hexec.symm.trans (huniform s (.refl i s))
    exact .inr ⟨e, rfl, huniform u hsame⟩

/-- Every read but `STAT.RD` completes or fails, so it leads to a state that it cannot tell from the first. -/
theorem sameForRead_of_exec {i : Instr} {s t : State} (hread : isRead i = true) (hstat : i ≠ .statRd)
    (hexec : exec i s = .next t) : SameForRead i s t := by
  obtain ⟨v, rfl, -⟩ | ⟨e, rfl, -⟩ := exec_read_of_same hread hstat hexec (.refl i s)
  · exact ⟨rfl, fun _ => rfl, rfl, rfl, rfl, rfl, rfl⟩
  · exact ⟨rfl, fun _ => rfl, rfl, rfl, rfl, rfl, rfl⟩

/-- Settles O56: a read completes with the same value, or raises the same cause, in the state that it leads to, and doing
either twice is doing it once. -/
theorem readsAreIdempotent : Obligations.ReadsAreIdempotent := by
  intro i s t hread hexec
  by_cases hstat : i = .statRd
  · subst hstat
    cases hexec
    exact ⟨rfl, rfl, rfl, rfl, rfl, rfl⟩
  · obtain ⟨v, rfl, hagain⟩ | ⟨e, rfl, hagain⟩ :=
      exec_read_of_same hread hstat hexec (sameForRead_of_exec hread hstat hexec)
    · exact ⟨hagain, rfl, rfl, rfl, rfl, rfl⟩
    · exact ⟨hagain, rfl, rfl, rfl, rfl, rfl⟩

/-! ### `ACC` and the inputs to come outside the checksum unit (R22)

The shared operations of the serializer and the deserializer neither read nor write `ACC` and the inputs to come. -/

/-- Another accumulator and other inputs to come. -/
def withAccPort (a : Byte) (es : List PortEvent) (s : State) : State := { s with acc := a, port := es }

section OtherAcc

variable (a : Byte) (es : List PortEvent) (s : State)

theorem serializeStatus_withAccPort (c : Byte) :
    serializeStatus c (withAccPort a es s) = withAccPort a es (serializeStatus c s) := by
  unfold serializeStatus
  cases h : encodeStatusRequest s.cfg.params c <;> simp only [withAccPort, h] <;> rfl

theorem serializeThrottle_withAccPort (raw : Half) :
    serializeThrottle raw (withAccPort a es s) = withAccPort a es (serializeThrottle raw s) := by
  unfold serializeThrottle
  cases h : encodeThrottleCommand s.cfg.params raw <;> simp only [withAccPort, h] <;> rfl

theorem armFor_withAccPort (c : Byte) : armFor c (withAccPort a es s) = withAccPort a es (armFor c s) := by
  obtain ⟨hq, h⟩ | ⟨q, hq, ha, h⟩ | ⟨q, hq, ha, h⟩ := armFor_cases c s
  · exact (armFor_of_unknown (s := withAccPort a es s) hq).trans (congrArg (withAccPort a es) h.symm)
  · exact (armFor_of_busy (s := withAccPort a es s) hq ha).trans (congrArg (withAccPort a es) h.symm)
  · exact (armFor_of_ready (s := withAccPort a es s) hq ha).trans (congrArg (withAccPort a es) h.symm)

theorem countedByte_withAccPort (b : Byte) : countedByte b (withAccPort a es s) = withAccPort a es (countedByte b s) := by
  rw [countedByte_eq, countedByte_eq]
  rfl

/-- R170, R171, R205 as one equation. -/
theorem offerByte_eq_ite (b : Byte) : offerByte b s =
    if s.status.rxst = .armed then
      if s.rxcnt + 1#8 = s.rxexpqty then completeWith 0x0000#16 (judgeFrame (countedByte b s))
      else completeWith (remaining s.rxexpqty (s.rxcnt + 1#8)) (countedByte b s)
    else dropStray s := by
  obtain ⟨ha, h⟩ | ⟨ha, hq, h⟩ | ⟨ha, hq, h⟩ := offerByte_cases b s
  · rw [h, if_neg ha]
  · rw [h, if_pos ha, if_neg hq]
  · rw [h, if_pos ha, if_pos hq]

theorem offerByte_withAccPort (b : Byte) : offerByte b (withAccPort a es s) = withAccPort a es (offerByte b s) := by
  rw [offerByte_eq_ite, offerByte_eq_ite, countedByte_withAccPort, apply_ite (withAccPort a es),
    apply_ite (withAccPort a es)]
  rfl

end OtherAcc

/-- A read outside the unit cannot tell states apart that differ in `ACC` only. -/
theorem exec_read_with_acc {i : Instr} {s t : State} (a : Byte) (hread : isRead i = true) (hstat : i ≠ .statRd)
    (hi : usesAcc i = false) (hexec : exec i s = .next t) : exec i { s with acc := a } = .next { t with acc := a } := by
  have hsame : SameForRead i s { s with acc := a } :=
    ⟨rfl, fun hu => absurd hu (Bool.eq_false_iff.1 hi), rfl, rfl, rfl, rfl, rfl⟩
  obtain ⟨v, rfl, hother⟩ | ⟨e, rfl, hother⟩ := exec_read_of_same hread hstat hexec hsame
  · exact hother
  · exact hother

/-- Settles O52: a read outside the unit cannot tell the two states apart, and every other arm calls shared operations that
neither read nor write `ACC`. -/
theorem accInvisibleOutsideChecksumUnit : Obligations.AccInvisibleOutsideChecksumUnit := by
  intro i s t a hi hexec
  have hother (u : State) (hport : u.port = s.port) : { u with acc := a } = withAccPort a s.port u := by
    rw [withAccPort, hport]
  cases i with
  | csumClr | csumAdd | csumRd | csumGen | csumChk => cases hi
  | nop | rxAbort | statRd | statClr => cases hexec; rfl
  | reqStatus1 | reqStatus2 | reqStatus3 | reqSetValue | rspStatus1 | rspStatus2 | rspStatus3 | rspSetValueAck =>
    cases hexec; rfl
  | txLen | txRd | rxHdr | rxRd | rxRd16 | rxQty => exact exec_read_with_acc a rfl (by simp) hi hexec
  | txStatus c =>
    rw [hother t (exec_port_of_not_isFrame hexec rfl)]
    cases hexec
    exact congrArg Host.Outcome.next (serializeStatus_withAccPort a s.port s c)
  | txThr raw =>
    rw [hother t (exec_port_of_not_isFrame hexec rfl)]
    cases hexec
    exact congrArg Host.Outcome.next (serializeThrottle_withAccPort a s.port s raw)
  | rxArm c =>
    rw [hother t (exec_port_of_not_isFrame hexec rfl)]
    cases hexec
    exact congrArg Host.Outcome.next (armFor_withAccPort a s.port s c)
  | rxByte b =>
    rw [hother t (exec_port_of_not_isFrame hexec rfl)]
    cases hexec
    exact congrArg Host.Outcome.next (offerByte_withAccPort a s.port s b)

end Sys2Proof.Machine
end

section
/-! PROOFS of the family other, invariants: the step (spec/43_control.md R204, R205), the invariants of spec/10_state.md R32,
the held verdict (spec/42_deserializer.md R169) and the ways out of ARMED (spec/70_reset_and_hazards.md R267).

`step_cases` says all that a step can do, and `step_preserves` turns it into the induction step of every invariant. The
invariants fall into a part about the serializer's registers, a part about the deserializer's, and the causes of `CMDERR`; an
instruction that does not write the registers of a part keeps it (R33), so each part is proved for its own writers only. -/

namespace Sys2Proof.Machine

/-! ### The step -/

/-- R204: the input is taken, and the instruction runs. -/
theorem step_of_decode {s : State} {e : Encoded} {rest : List PortEvent} {i : Instr}
    (hport : s.port = .present e :: rest) (hdecode : decode s.cfg.params e = .ok i) :
    step s = exec i { s with port := rest } := by
  simp only [step, takeInput_of_port hport, hdecode]

theorem step_of_nothing {s : State} (hport : s.port = []) : step s = .next s := by
  simp only [step, takeInput, hport]

/-- Settles O14: the step takes the input, decodes it and is `exec` of it. -/
theorem stepRunsDecodedInstruction : Obligations.StepRunsDecodedInstruction := fun _ _ _ _ hport hdecode =>
  step_of_decode hport hdecode

/-- Settles O17: the state after the event is `State.resetWith` on the parameters and the inputs behind the event. -/
theorem resetEventKeepsParametersAndInputs : Obligations.ResetEventKeepsParametersAndInputs := fun s rest hport =>
  ⟨_, step_of_reset hport, resetWith_cfg s.cfg rest, resetWith_port s.cfg rest⟩

/-- All that a step can do when it answers a next state. -/
theorem step_cases {s t : State} (hstep : step s = .next t) :
    (s.port = [] ∧ t = s) ∨
    (∃ rest, s.port = .reset :: rest ∧ t = State.resetWith s.cfg rest) ∨
    (∃ e rest i, s.port = .present e :: rest ∧ decode s.cfg.params e = .ok i ∧ exec i { s with port := rest } = .next t) ∨
    (∃ e rest, s.port = .present e :: rest ∧ t = raiseCause .illegalCommand { s with port := rest }) := by
  cases hport : s.port with
  | nil =>
    cases (step_of_nothing hport).symm.trans hstep
    exact .inl ⟨rfl, rfl⟩
  | cons event rest =>
    cases event with
    | reset =>
      cases (step_of_reset hport).symm.trans hstep
      exact .inr (.inl ⟨rest, rfl, rfl⟩)
    | present e =>
      cases hdecode : decode s.cfg.params e with
      | ok i => exact .inr (.inr (.inl ⟨e, rest, i, rfl, hdecode, (step_of_decode hport hdecode).symm.trans hstep⟩))
      | error why =>
        have hrejected := (step_of_reject hport hdecode).symm.trans hstep
        cases why with
        | illegal why =>
          cases hrejected
          exact .inr (.inr (.inr ⟨e, rest, rfl, rfl⟩))
        | notFrame why => cases hrejected

/-- What holds right after reset, does not speak of the inputs to come, and is kept by every instruction and by the execution
of an illegal word, is kept by every step. -/
theorem step_preserves {P : State → Prop} (hport : ∀ s es, P s → P { s with port := es })
    (hreset : ∀ cfg es, P (State.resetWith cfg es)) (hexec : ∀ i s t, P s → exec i s = .next t → P t)
    (hillegal : ∀ s, P s → P (raiseCause .illegalCommand s)) {s t : State} (hs : P s) (hstep : step s = .next t) : P t := by
  obtain ⟨-, rfl⟩ | ⟨rest, -, rfl⟩ | ⟨e, rest, i, -, -, he⟩ | ⟨e, rest, -, rfl⟩ := step_cases hstep
  · exact hs
  · exact hreset s.cfg rest
  · exact hexec i _ t (hport s rest hs) he
  · exact hillegal _ (hport s rest hs)

/-! ### The step answers a next state (R205) -/

theorem exec_total (i : Instr) (s : State) : ∃ t, exec i s = .next t := by
  by_cases hread : isRead i = true ∧ i ≠ .statRd
  · obtain ⟨v, h⟩ | ⟨e, h⟩ := readsUniformly hread.1 hread.2 s
    · exact ⟨_, h s (.refl i s)⟩
    · exact ⟨_, h s (.refl i s)⟩
  · cases i with
    | csumRd | csumGen | csumChk | txLen | txRd | rxHdr | rxRd | rxRd16 | rxQty => exact absurd ⟨rfl, by simp⟩ hread
    | _ => exact ⟨_, rfl⟩

/-- Settles O59: an input that decodes runs, an illegal word raises, and only a transfer that is no frame is refused. -/
theorem stepTotalExceptOnNonFrames : Obligations.StepTotalExceptOnNonFrames := by
  refine ⟨exec_total, fun s hframes => ?total, fun s dir bs rest why hport hframe => ?refused⟩
  case total =>
    cases hport : s.port with
    | nil => exact ⟨s, step_of_nothing hport⟩
    | cons event rest =>
      cases event with
      | reset => exact ⟨_, step_of_reset hport⟩
      | present e =>
        cases hdecode : decode s.cfg.params e with
        | ok i =>
          rw [step_of_decode hport hdecode]
          exact exec_total i _
        | error why =>
          cases e with
          | word w =>
            cases hw : decodeWord w with
            | ok i => simp [decode_word_of_ok hw] at hdecode
            | error why' => exact ⟨_, (step_of_reject hport (decode_word_of_error hw _)).trans (runRejected_illegal _ _)⟩
          | frame dir bs =>
            obtain ⟨i, hi⟩ := hframes dir bs rest hport
            simp [decode_frame_eq_ok_iff.2 hi] at hdecode
  case refused =>
    have hdecode : decode s.cfg.params (.frame dir bs) = .error (.notFrame why) := by simp only [decode, hframe]
    rw [step_of_reject hport hdecode]
    rfl

/-! ### The ways out of ARMED (R267) -/

/-- R170, R172: of all instructions only the abort and the byte that completes the frame leave ARMED. -/
theorem exec_leaves_armed {i : Instr} {s t : State} (hexec : exec i s = .next t) (ha : s.status.rxst = .armed)
    (hna : t.status.rxst ≠ .armed) : i = .rxAbort ∨ ∃ b, i = .rxByte b ∧ s.rxcnt + 1#8 = s.rxexpqty := by
  obtain hsame | ⟨c, q, -, -, hready, -⟩ | ⟨rfl, -⟩ | ⟨b, v, -, -, -, rfl⟩ | ⟨b, rfl, -, hlast, -⟩ := exec_rx_cases hexec
  · exact absurd (hsame.rxst.trans ha) hna
  · exact absurd ha hready
  · exact .inl rfl
  · exact absurd (by simpa using ha) hna
  · exact .inr ⟨b, rfl, hlast⟩

/-- Settles O55: a step that runs an instruction leaves ARMED as the instruction does, and one that raises does not. -/
theorem armedIsLeftOnlyByThese : Obligations.ArmedIsLeftOnlyByThese := by
  intro s t hstep ha hna
  obtain ⟨-, rfl⟩ | ⟨rest, hport, -⟩ | ⟨e, rest, i, hport, hdecode, hexec⟩ | ⟨e, rest, -, rfl⟩ := step_cases hstep
  · exact absurd ha hna
  · exact ⟨_, rest, hport, .inl rfl⟩
  · exact ⟨_, rest, hport, .inr ⟨e, i, rfl, hdecode, exec_leaves_armed (s := { s with port := rest }) hexec ha hna⟩⟩
  · exact absurd ha hna

/-! ### The parts of the invariant (R32) -/

/-- R32(f) and the form of `TXBUF`. -/
structure TxInv (s : State) : Prop where
  txLengths : s.txlen = 0#5 ∨ s.txlen = 3#5 ∨ s.txlen = 23#5
  txTailZero : ∀ k, s.txlen.toNat ≤ k → s.txbuf.read k = 0x00#8
  txForm : s.txbuf.wf = true ∧ s.txbuf.within s.cfg.params.txBufBytes = true

/-- R32(d), (e) and the form of `RXBUF`: what the invariant says of the bytes taken, whatever `RXST`. -/
structure RxHeld (s : State) : Prop where
  sumKept : s.rxacc = sum8 (s.rxbuf.bytes 0 s.rxcnt.toNat)
  rxTailZero : ∀ k, s.rxcnt.toNat ≤ k → s.rxbuf.read k = 0x00#8
  rxForm : s.rxbuf.wf = true ∧ s.rxbuf.within s.cfg.params.rxBufBytes = true

/-- R32(a) to (e) and (g), the frame causes of (h), R25, R31 and the form of `RXBUF`. -/
structure RxInv (s : State) : Prop extends RxHeld s where
  idleEmpty : s.status.rxst = .idle → s.rxcnt = 0#8
  armedShort : s.status.rxst = .armed → s.rxcnt.toNat < s.rxexpqty.toNat
  doneFull : s.status.rxst = .doneOk ∨ s.status.rxst = .doneErr → s.rxcnt = s.rxexpqty
  okIff : s.status.rxst = .doneOk ↔ s.rxcnt = s.rxexpqty ∧ s.status.rxerr = .none ∧ s.status.rxst ≠ .idle
  frameCauses : s.status.rxerr ∈ [Cause.none, .checksumMismatch, .responseTimeout, .unexpectedCode, .quantityMismatch]
  expected : s.status.rxst ≠ .idle → rspQty s.cfg.params s.rxexpcode = some s.rxexpqty
  armedClean : s.status.rxst = .armed → s.status.rxerr = .none

/-- R32(h), the causes a command can leave. -/
def CmdInv (s : State) : Prop := s.status.cmderr ∈ [Cause.none, .illegalCommand, .badCode, .busy, .notReady, .range]

/-- The parts make the invariant; the reserved bits read 0 in every state. -/
theorem inv_iff (s : State) : Inv s ↔ TxInv s ∧ RxInv s ∧ CmdInv s :=
  ⟨fun h => ⟨⟨h.txLengths, h.txTailZero, h.txForm⟩, ⟨⟨h.sumKept, h.rxTailZero, h.rxForm⟩, h.idleEmpty, h.armedShort,
      h.doneFull, h.okIff, h.frameCauses, h.expected, h.armedClean⟩, h.cmdCauses⟩,
    fun ⟨htx, hrx, hcmd⟩ => ⟨hrx.idleEmpty, hrx.armedShort, hrx.doneFull, hrx.sumKept, hrx.rxTailZero, htx.txLengths,
      htx.txTailZero, hrx.okIff, s.status.toWord_reserved, hcmd, hrx.frameCauses, hrx.expected, hrx.armedClean, hrx.rxForm,
      htx.txForm⟩⟩

theorem RxInv.of_same {s t : State} (h : RxInv s) (hsame : SameRx s t) : RxInv t := by
  obtain ⟨hcfg, hcode, hqty, hcnt, hacc, hbuf, hrxst, hrxerr⟩ := hsame
  refine ⟨⟨?_, ?_, ?_⟩, ?_, ?_, ?_, ?_, ?_, ?_, ?_⟩
  all_goals simp only [hcfg, hcode, hqty, hcnt, hacc, hbuf, hrxst, hrxerr]
  exacts [h.sumKept, h.rxTailZero, h.rxForm, h.idleEmpty, h.armedShort, h.doneFull, h.okIff, h.frameCauses, h.expected,
    h.armedClean]

/-! ### The serializer's part -/

theorem txInv_loadTx {f : List Byte} {n : BitVec 5} {s : State} (hn : n = 3#5 ∨ n = 23#5) (hlen : f.length = n.toNat) :
    TxInv (completeWith 0x0000#16 (loadTx f n s)) := by
  obtain ⟨-, hqty, -⟩ := Config.facts s.cfg
  have hsize : s.cfg.params.txBufBytes = 23 := congrArg BitVec.toNat hqty
  have hle : f.length ≤ 23 := by rw [hlen]; obtain rfl | rfl := hn <;> decide
  refine ⟨.inr hn, fun k hk => ?_, Memory.ofBytes_wf f, Memory.ofBytes_within f (hle.trans hsize.ge)⟩
  exact (Memory.read_ofBytes f k).trans (List.getD_eq_default _ _ (hlen.trans_le hk))

theorem txInv_of_exec {i : Instr} {s t : State} (h : TxInv s) (hexec : exec i s = .next t) : TxInv t := by
  cases hi : writesTx i with
  | false =>
    obtain ⟨hbuf, hlen⟩ := exec_tx hexec hi
    constructor
    all_goals simp only [exec_cfg hexec, hbuf, hlen]
    exacts [h.txLengths, h.txTailZero, h.txForm]
  | true =>
    cases i with
    | txStatus c =>
      cases hexec
      obtain ⟨-, hbuilt⟩ | ⟨-, hfailed⟩ := serializeStatus_cases c s
      · rw [hbuilt]
        exact txInv_loadTx (.inl rfl) rfl
      · rw [hfailed]
        exact ⟨h.txLengths, h.txTailZero, h.txForm⟩
    | txThr raw =>
      cases hexec
      obtain ⟨-, hbuilt⟩ | ⟨-, hfailed⟩ := serializeThrottle_cases raw s
      · rw [hbuilt]
        exact txInv_loadTx (.inr rfl) rfl
      · rw [hfailed]
        exact ⟨h.txLengths, h.txTailZero, h.txForm⟩
    | _ => cases hi

/-! ### The deserializer's part: a cleared buffer -/

/-- R168, R172, R250: with no byte taken, the block is idle or freshly armed. -/
theorem rxInv_of_cleared {t : State} (hcnt : t.rxcnt = 0#8) (hacc : t.rxacc = 0x00#8) (hbuf : t.rxbuf = Memory.empty)
    (hcause : t.status.rxerr ∈ [Cause.none, .checksumMismatch, .responseTimeout, .unexpectedCode, .quantityMismatch])
    (hst : t.status.rxst = .idle ∨
      t.status.rxst = .armed ∧ rspQty t.cfg.params t.rxexpcode = some t.rxexpqty ∧ t.status.rxerr = .none) :
    RxInv t where
  idleEmpty _ := hcnt
  armedShort ha := by
    obtain h | ⟨-, hq, -⟩ := hst
    · simp [h] at ha
    · obtain ⟨hmin, -⟩ := rspQty_fits hq
      rw [hcnt]
      exact (show 0 < 3 by decide).trans_le hmin
  doneFull hd := by obtain h | ⟨h, -⟩ := hst <;> simp [h] at hd
  sumKept := by rw [hacc, hcnt]; rfl
  rxTailZero k _ := by rw [hbuf, Memory.empty_read]
  okIff := by
    obtain h | ⟨h, hq, -⟩ := hst
    · simp [h]
    · obtain ⟨hmin, -⟩ := rspQty_fits hq
      have hne : t.rxcnt ≠ t.rxexpqty := fun heq => by
        rw [← heq, hcnt] at hmin
        exact absurd hmin (by decide)
      simp [h, hne]
  frameCauses := hcause
  expected hni := by
    obtain h | ⟨-, hq, -⟩ := hst
    · exact absurd h hni
    · exact hq
  armedClean ha := by
    obtain h | ⟨-, -, hnone⟩ := hst
    · simp [h] at ha
    · exact hnone
  rxForm := by rw [hbuf]; exact ⟨Memory.empty_wf, Memory.empty_within _⟩

/-! ### The deserializer's part: a byte taken -/

theorem Memory.bytes_succ (m : Memory) (n a : Nat) : m.bytes a (n + 1) = m.bytes a n ++ [m.read (a + n)] := by
  induction n generalizing a with
  | zero => rfl
  | succ n ih =>
    rw [Memory.bytes, ih (a + 1), Memory.bytes, List.cons_append, Nat.add_right_comm, Nat.add_assoc]

theorem Memory.bytes_congr {m m' : Memory} {n a : Nat} (h : ∀ k < a + n, m.read k = m'.read k) :
    m.bytes a n = m'.bytes a n := by
  induction n generalizing a with
  | zero => rfl
  | succ n ih => rw [Memory.bytes, Memory.bytes, h a (by omega), ih (fun k hk => h k (by omega))]

theorem Memory.bytes_getD (m : Memory) {n k : Nat} (hk : k < n) (a : Nat) (d : Byte) :
    (m.bytes a n).getD k d = m.read (a + k) := by
  induction n generalizing a k with
  | zero => omega
  | succ n ih =>
    cases k with
    | zero => rfl
    | succ k => rw [Memory.bytes, List.getD_cons_succ, ih (by omega), Nat.add_right_comm, Nat.add_assoc]

/-- The bytes held after one more is stored behind them. -/
theorem Memory.bytes_write {m : Memory} (hwf : m.wf = true) (n : Nat) (b : Byte) :
    (m.write n b).bytes 0 (n + 1) = m.bytes 0 n ++ [b] := by
  have hbefore : (m.write n b).bytes 0 n = m.bytes 0 n :=
    Memory.bytes_congr fun k hk => Memory.read_write_other hwf b (by omega)
  rw [Memory.bytes_succ, hbefore, Nat.zero_add, Memory.read_write_same hwf]

section Taking

variable {s : State} (b : Byte)

/-- R32(b) with R7(b): while ARMED the next byte has an offset in `RXBUF`, and the count does not wrap. -/
theorem RxInv.armed_room (h : RxInv s) (ha : s.status.rxst = .armed) :
    s.rxcnt.toNat < s.cfg.params.rxBufBytes ∧ (s.rxcnt + 1#8).toNat = s.rxcnt.toNat + 1 := by
  have hshort := h.armedShort ha
  obtain ⟨-, hfits⟩ := rspQty_fits (h.expected (by simp [ha]))
  have hlt := s.rxexpqty.isLt
  refine ⟨by omega, ?_⟩
  rw [BitVec.toNat_add, BitVec.toNat_ofNat]
  omega

/-- R170: the byte is stored behind those already taken, and summed and counted with them. -/
theorem RxInv.rxHeld_countedByte (h : RxInv s) (ha : s.status.rxst = .armed) : RxHeld (countedByte b s) := by
  obtain ⟨hroom, hcount⟩ := h.armed_room ha
  obtain ⟨hwf, hwithin⟩ := h.rxForm
  rw [countedByte_inside hroom]
  refine ⟨?sum, fun k hk => ?tail, Memory.write_wf hwf _ b, Memory.write_within hwithin hroom b⟩
  case sum =>
    simp only [hcount, Memory.bytes_write hwf, sum8_append, sum8_singleton]
    rw [h.sumKept]
  case tail =>
    simp only [hcount] at hk
    simp only [Memory.read_write_other hwf b (show k ≠ s.rxcnt.toNat by omega)]
    exact h.rxTailZero k (by omega)

/-- R170: a byte that does not complete the frame leaves the block ARMED, with a byte still expected. -/
theorem RxInv.of_more (h : RxInv s) (ha : s.status.rxst = .armed) (hmore : s.rxcnt + 1#8 ≠ s.rxexpqty) (v : Half) :
    RxInv (completeWith v (countedByte b s)) := by
  obtain ⟨-, hcount⟩ := h.armed_room ha
  obtain ⟨hsum, htail, hform⟩ := h.rxHeld_countedByte b ha
  have hshort := h.armedShort ha
  have hne : (s.rxcnt + 1#8).toNat ≠ s.rxexpqty.toNat := fun heq => hmore (BitVec.eq_of_toNat_eq heq)
  exact {
    toRxHeld := ⟨hsum, htail, hform⟩
    idleEmpty := fun hi => by simp [ha] at hi
    armedShort := fun _ => by
      simp only [completeWith_rxcnt, countedByte_rxcnt, completeWith_rxexpqty, countedByte_rxexpqty]
      omega
    doneFull := fun hd => by simp [ha] at hd
    okIff := by simp [ha, hmore]
    frameCauses := by simpa using h.frameCauses
    expected := fun _ => by simpa using h.expected (by simp [ha])
    armedClean := fun _ => by simpa using h.armedClean ha }

end Taking

theorem verdict_mem_frameCauses (sum q c eq ec : Byte) : verdict sum q c eq ec ∈
    [Cause.none, .checksumMismatch, .responseTimeout, .unexpectedCode, .quantityMismatch] := by
  obtain ⟨-, h⟩ | ⟨-, -, h⟩ | ⟨-, -, -, h⟩ | ⟨-, -, -, h⟩ := verdict_cases sum q c eq ec <;> rw [h] <;> decide

/-- R169: a complete frame is judged and leads to a DONE state, and the verdict tells which. -/
theorem rxInv_of_judged {u : State} (hheld : RxHeld u) (hfull : u.rxcnt = u.rxexpqty)
    (hq : rspQty u.cfg.params u.rxexpcode = some u.rxexpqty) (v : Half) : RxInv (completeWith v (judgeFrame u)) := by
  have hdone (e : Cause) : (if e = .none then RxState.doneOk else .doneErr) ≠ .idle ∧
      (if e = .none then RxState.doneOk else .doneErr) ≠ .armed := by split <;> simp
  have hidle (e : Cause) := (hdone e).1
  exact {
    toRxHeld := ⟨hheld.sumKept, hheld.rxTailZero, hheld.rxForm⟩
    idleEmpty := fun hi => absurd hi (hdone _).1
    armedShort := fun ha => absurd ha (hdone _).2
    doneFull := fun _ => hfull
    okIff := by simp [hfull, hidle]
    frameCauses := verdict_mem_frameCauses _ _ _ _ _
    expected := fun _ => hq
    armedClean := fun ha => absurd ha (hdone _).2 }

/-- Each instruction keeps the deserializer's part: what it does to the registers is `exec_rx_cases`. -/
theorem rxInv_of_exec {i : Instr} {s t : State} (h : RxInv s) (hexec : exec i s = .next t) : RxInv t := by
  obtain hsame | ⟨c, q, -, hq, -, rfl⟩ | ⟨-, rfl⟩ | ⟨b, v, -, ha, hmore, rfl⟩ | ⟨b, -, ha, hlast, rfl⟩ := exec_rx_cases hexec
  · exact h.of_same hsame
  · exact rxInv_of_cleared rfl rfl rfl (List.mem_cons_self ..) (.inr ⟨rfl, hq, rfl⟩)
  · refine rxInv_of_cleared rfl rfl rfl ?_ (.inl (Status.abort_rxst s.status))
    obtain ⟨-, -, hcause⟩ | ⟨-, -, hcause⟩ := Status.abort_cases s.status
    · simp [hcause]
    · simpa [hcause] using h.frameCauses
  · exact h.of_more b ha hmore v
  · exact rxInv_of_judged (h.rxHeld_countedByte b ha) (by simpa using hlast) (by simpa using h.expected (by simp [ha])) _

/-! ### The causes of `CMDERR` -/

theorem cmdInv_of_exec {i : Instr} {s t : State} (h : CmdInv s) (hexec : exec i s = .next t) : CmdInv t := by
  cases hk : keepsCmdErr i with
  | true =>
    obtain ⟨hcmd, -⟩ := exec_cmderr_errseen hexec hk
    rwa [CmdInv, hcmd]
  | false =>
    obtain hnone | hcause := exec_cmderr hexec hk
    · rw [CmdInv, hnone]
      exact List.mem_cons_self ..
    · exact List.mem_cons_of_mem _ (possibleCauses_subset hcause)

/-! ### The invariant as a whole -/

theorem rxInv_resetWith (cfg : Config) (es : List PortEvent) : RxInv (State.resetWith cfg es) :=
  rxInv_of_cleared rfl rfl rfl (List.mem_cons_self ..) (.inl rfl)

/-- R32 right after reset, under every configuration and whatever the host has still to present. -/
theorem inv_resetWith (cfg : Config) (es : List PortEvent) : Inv (State.resetWith cfg es) :=
  (inv_iff _).2 ⟨⟨.inl rfl, fun _ _ => rfl, Memory.empty_wf, Memory.empty_within _⟩, rxInv_resetWith cfg es,
    List.mem_cons_self ..⟩

/-- Settles O57: `State.reset` is the reset state of the default configuration with nothing presented. -/
theorem invariantsHoldAtReset : Obligations.InvariantsHoldAtReset := inv_resetWith Config.default []

theorem inv_of_exec {i : Instr} {s t : State} (h : Inv s) (hexec : exec i s = .next t) : Inv t := by
  obtain ⟨htx, hrx, hcmd⟩ := (inv_iff s).1 h
  exact (inv_iff t).2 ⟨txInv_of_exec htx hexec, rxInv_of_exec hrx hexec, cmdInv_of_exec hcmd hexec⟩

/-- Settles O58: each part is kept by every instruction; no part speaks of the inputs to come, and an illegal word writes
only `RES`, `CMDERR` and `ERRSEEN`. -/
theorem stepKeepsInvariants : Obligations.StepKeepsInvariants := by
  intro s t hinv hstep
  refine step_preserves (fun s es h => ?port) inv_resetWith (fun i s t => inv_of_exec) (fun s h => ?illegal) hinv hstep
  all_goals obtain ⟨htx, hrx, hcmd⟩ := (inv_iff s).1 h
  case port =>
    exact (inv_iff _).2 ⟨⟨htx.txLengths, htx.txTailZero, htx.txForm⟩, hrx.of_same (sameRx_port s es), hcmd⟩
  case illegal =>
    exact (inv_iff _).2 ⟨⟨htx.txLengths, htx.txTailZero, htx.txForm⟩, hrx.of_same (sameRx_raiseCause _ s),
      List.mem_cons_of_mem _ (List.mem_cons_self ..)⟩

/-! ### The held verdict (R169) -/

/-- R169: the verdict on the registers of a complete frame is the verdict on the bytes held. -/
theorem frameVerdict_heldFrame {u : State} (hheld : RxHeld u) (hfull : u.rxcnt = u.rxexpqty)
    (hq : rspQty u.cfg.params u.rxexpcode = some u.rxexpqty) :
    frameVerdict u.rxexpqty u.rxexpcode (heldFrame u) =
      verdict u.rxacc (u.rxbuf.read 0) (u.rxbuf.read 1) u.rxexpqty u.rxexpcode := by
  obtain ⟨hmin, -⟩ := rspQty_fits hq
  rw [frameVerdict, heldFrame, Memory.bytes_getD _ (by omega), Memory.bytes_getD _ (by omega), hheld.sumKept, hfull]

theorem heldVerdict_of_open {s : State} (hst : s.status.rxst = .idle ∨ s.status.rxst = .armed) : HeldVerdict s := by
  obtain h | h := hst <;> exact ⟨fun hok => by simp [h] at hok, fun herr => by simp [h] at herr⟩

/-- R169: a complete frame is judged as `deframe` judges the bytes held. -/
theorem heldVerdict_of_judged {u : State} (hheld : RxHeld u) (hfull : u.rxcnt = u.rxexpqty)
    (hq : rspQty u.cfg.params u.rxexpcode = some u.rxexpqty) (v : Half) :
    HeldVerdict (completeWith v (judgeFrame u)) := by
  have hdeframe := deframe_eq_verdictAnswer hq (Memory.bytes_length u.rxbuf u.rxexpqty.toNat 0)
  rw [← heldFrame, frameVerdict_heldFrame hheld hfull hq] at hdeframe
  obtain ⟨he, hanswer⟩ | ⟨he, hanswer⟩ := verdictAnswer_cases u.rxexpqty (heldFrame u)
    (verdict u.rxacc (u.rxbuf.read 0) (u.rxbuf.read 1) u.rxexpqty u.rxexpcode)
  · exact ⟨fun _ => hdeframe.trans (congrArg some hanswer), fun herr => by simp [he] at herr⟩
  · exact ⟨fun hok => by simp [he] at hok, fun _ => hdeframe.trans (congrArg some hanswer)⟩

theorem HeldVerdict.of_same {s t : State} (h : HeldVerdict s) (hsame : SameRx s t) : HeldVerdict t := by
  obtain ⟨hcfg, hcode, hqty, -, -, hbuf, hrxst, hrxerr⟩ := hsame
  constructor
  all_goals simp only [heldFrame, hcfg, hcode, hqty, hbuf, hrxst, hrxerr]
  exacts [h.accepted, h.rejected]

/-- Of all instructions only the byte that completes a frame makes a verdict. -/
theorem heldVerdict_of_exec {i : Instr} {s t : State} (hrx : RxInv s) (h : HeldVerdict s) (hexec : exec i s = .next t) :
    HeldVerdict t := by
  obtain hsame | ⟨c, q, -, -, -, rfl⟩ | ⟨-, rfl⟩ | ⟨b, v, -, ha, -, rfl⟩ | ⟨b, -, ha, hlast, rfl⟩ := exec_rx_cases hexec
  · exact h.of_same hsame
  · exact heldVerdict_of_open (.inr rfl)
  · exact heldVerdict_of_open (.inl (Status.abort_rxst s.status))
  · exact heldVerdict_of_open (.inr (by simp [ha]))
  · exact heldVerdict_of_judged (hrx.rxHeld_countedByte b ha) (by simpa using hlast)
      (by simpa using hrx.expected (by simp [ha])) _

/-- Settles O60: nothing is held at reset, and the verdict is kept together with the deserializer's part of the invariant. -/
theorem heldVerdictIsDeframes : Obligations.HeldVerdictIsDeframes := by
  refine ⟨heldVerdict_of_open (.inl rfl), fun s t hinv hheld hstep => ?_⟩
  obtain ⟨-, hrx, -⟩ := (inv_iff s).1 hinv
  have hboth : RxInv t ∧ HeldVerdict t := by
    refine step_preserves (P := fun s => RxInv s ∧ HeldVerdict s) (fun s es h => ?port)
      (fun cfg es => ⟨rxInv_resetWith cfg es, heldVerdict_of_open (.inl rfl)⟩)
      (fun i s t h hexec => ⟨rxInv_of_exec h.1 hexec, heldVerdict_of_exec h.1 h.2 hexec⟩) (fun s h => ?illegal)
      ⟨hrx, hheld⟩ hstep
    case port => exact ⟨h.1.of_same (sameRx_port s es), h.2.of_same (sameRx_port s es)⟩
    case illegal => exact ⟨h.1.of_same (sameRx_raiseCause _ s), h.2.of_same (sameRx_raiseCause _ s)⟩
  exact hboth.2

end Sys2Proof.Machine
end

section
/-! PROOFS of the family other, frames and runs: the properties of encoded frames (spec/41_serializer.md R132), the running
checksum (spec/40_checksum.md R106), reading a frame back (spec/70_reset_and_hazards.md R262), a byte taken
(spec/42_deserializer.md R170), and whole frames as the commands that carry them (log entries 4 and 5).

A run of several words is taken apart at its first word (`runWords_cons_of_decode`, `observe_cons_of_decode`). A whole
response frame is queued as `RX.BYTE` words; since a byte offered neither reads nor writes the queue, the steps that follow
are `offerBytes` of its bytes. -/

namespace Sys2Proof.Machine

/-! ### Encoded frames (R132) -/

theorem getLast?_withChecksum (h : List Byte) : (withChecksum h).getLast? = some (ck h) := by
  simp [withChecksum]

/-- R132(d): with the factor 10 and the code 0xC9 a throttle command's checksum is not 0x00. The two bytes of the scaled
value would have to sum to 32 or 288; the value exceeds that sum by 255 times its high byte, so it would be 2 or 3 modulo 5,
and it is a multiple of 10. -/
theorem ck_throttleHeader_ne_zero {raw : Nat} (hfits : raw * 10 ≤ 0xFFFF) :
    ck (throttleHeader 0xC9#8 (raw * 10) ++ zeros 18) ≠ 0x00#8 := by
  have hsum : (0x17 + 0xC9 + raw * 10 % 256 + raw * 10 / 256) % 256 ≠ 0 := by omega
  rw [ck_throttleHeader _ hfits, ne_eq, ← BitVec.toNat_inj, BitVec.toNat_ofNat]
  simp only [BitVec.toNat_ofNat]
  omega

/-- Settles O6: the frames written out by R72 and R73. -/
theorem encodedFrameProperties : Obligations.EncodedFrameProperties := by
  refine ⟨fun cfg c f hf => ?status, fun cfg raw f hf => ?throttle, fun c raw f hf => ?document⟩
  case status =>
    obtain ⟨-, rfl⟩ := encodeStatusRequest_eq_some_iff.1 hf
    refine ⟨frameSumOk_withChecksum _, ?_⟩
    rw [statusRequestFrame_eq]
    refine ⟨rfl, rfl, ?_⟩
    rw [List.getLast?_cons_cons, List.getLast?_cons_cons, List.getLast?_singleton, Option.some_inj]
    exact sub_eq_zero.trans eq_comm
  case throttle =>
    obtain ⟨hfits, rfl⟩ := encodeThrottleCommand_eq_some_iff.1 hf
    refine ⟨frameSumOk_withChecksum _, rfl, ?_⟩
    rw [throttleFrame_eq cfg hfits]
    rfl
  case document =>
    obtain ⟨hfits, rfl⟩ := encodeThrottleCommand_eq_some_iff.1 hf
    have hframe := throttleFrame_eq ⟨_, Params.document_ok c⟩ hfits
    rw [hframe, getLast?_withChecksum, ne_eq, Option.some_inj]
    exact ck_throttleHeader_ne_zero hfits

/-! ### The running checksum (R106) -/

/-- `CSUM.ADD` of one byte after the other, after a command that completed with 0. -/
theorem runWords_csumAdds (p : Params) (bs : List Byte) (a : Byte) (s : State) :
    runWords (wordsOf p (bs.map .csumAdd)) (completeWith 0x0000#16 { s with acc := a }) =
      .next (completeWith 0x0000#16 { s with acc := a + sum8 bs }) := by
  induction bs generalizing a with
  | nil => rw [sum8_nil, BitVec.add_zero]; rfl
  | cons b bs ih =>
    refine (runWords_cons_of_decode (decodeWord_byte (op := 0x02#8) rfl b) (exec_csumAdd b _) _).trans ?_
    rw [sum8_cons, ← add_assoc]
    exact ih (a + b)

/-- R86: the words of `CSUM.OVER`. -/
theorem runWords_csumOver (p : Params) (bs : List Byte) (s : State) :
    runWords (wordsOf p (expandPseudo (.csumOver bs))) s = .next (completeWith 0x0000#16 { s with acc := sum8 bs }) := by
  refine (runWords_cons_of_decode (decodeWord_none (op := 0x01#8) rfl) (exec_csumClr s) _).trans ?_
  rw [← BitVec.zero_add (sum8 bs)]
  exact runWords_csumAdds p bs 0x00#8 s

/-- Settles O28: `ACC` is the sum, whose negation is `ck`. -/
theorem runningChecksumIsCk : Obligations.RunningChecksumIsCk := by
  intro s bs c
  refine ⟨_, _, _, runWords_csumOver s.cfg.params bs s, completeWith_eq _ _, exec_csumGen _, ?gen, exec_csumChk c _, ?chk⟩
  case gen => rw [ck_eq_neg_sum8]; rfl
  case chk =>
    have hck : sum8 bs + c = 0x00#8 ↔ c = ck bs := by
      rw [ck_eq_neg_sum8]
      exact add_eq_zero_iff_neg_eq.trans eq_comm
    change (if sum8 bs + c = 0x00#8 then 0x0001#16 else 0x0000#16) = 0x0001#16 ↔ c = ck bs
    rw [← hck]
    by_cases hsum : sum8 bs + c = 0x00#8 <;> simp [hsum]

/-! ### Reading a frame back (R262) -/

/-- R13: what is observed of a word that is a command, and then of the words after it. -/
theorem observe_cons_of_decode {w : CmdWord} {i : Instr} {s t : State} (hw : decodeWord w = .ok i)
    (he : exec i s = .next t) (ws : List CmdWord) : observe (w :: ws) s = t.res :: observe ws t := by
  have hstep : presentWord w s = .next t :=
    (step_of_decode (s := presentFirst (.word w) s) rfl (decode_word_of_ok hw _)).trans he
  rw [observe, hstep]

/-- R143: `TX.RD` at offsets below `TXLEN` shows the bytes of `TXBUF`, in the order read. -/
theorem observe_txRds (p : Params) {ks : List Nat} {s : State} (hlen : s.txlen.toNat ≤ 23)
    (hks : ∀ k ∈ ks, k < s.txlen.toNat) :
    observe (wordsOf p (ks.map fun k => .txRd (BitVec.ofNat 8 k))) s = ks.map fun k => (s.txbuf.read k).setWidth 16 := by
  induction ks generalizing s with
  | nil => rfl
  | cons k ks ih =>
    have hk : k < s.txlen.toNat := hks k (List.mem_cons_self ..)
    have hnum : (BitVec.ofNat 8 k).toNat = k := Nat.mod_eq_of_lt (by omega)
    have hread := exec_txRd_below (i := BitVec.ofNat 8 k) (by rwa [hnum]) (by omega)
    refine (observe_cons_of_decode (decodeWord_byte (op := 0x13#8) rfl _) hread _).trans ?_
    rw [completeWith_res, hnum, List.map_cons]
    exact congrArg _ (ih hlen fun k' hk' => hks k' (List.mem_cons_of_mem _ hk'))

/-- R86, R143: `TX.DUMP` of a whole frame shows its bytes. -/
theorem observe_txDump (p : Params) {f : List Byte} {n : Fin 257} {m : BitVec 5} (s : State) (hlen : f.length = n.val)
    (hm : m.toNat = n.val) (hn : n.val ≤ 23) :
    observe (wordsOf p (expandPseudo (.txDump n))) (completeWith 0x0000#16 (loadTx f m s)) = f.map (BitVec.setWidth 16) := by
  refine (observe_txRds p (hm.trans_le hn) fun k hk => (List.mem_range.1 hk).trans_eq hm.symm).trans ?_
  apply List.ext_getElem
  · simp [hlen]
  · intro k hk hk'
    have hbyte : (Memory.ofBytes f).read k = f[k]'(by simpa using hk') := by
      rw [Memory.read_ofBytes, List.getD_eq_getElem]
    simp [hbyte]

/-- Settles O33: the frame is built with its length, and dumped. -/
theorem serializedFrameIsReadBack : Obligations.SerializedFrameIsReadBack := by
  refine ⟨fun s c f hf => ?status, fun s raw f hf => ?throttle⟩
  case status =>
    obtain ⟨hcode, rfl⟩ := encodeStatusRequest_eq_some_iff.1 hf
    rw [statusRequestFrame_eq]
    refine (observe_cons_of_decode (decodeWord_byte (op := 0x10#8) rfl c) (exec_txStatus_of_isStatusCode hcode) _).trans ?_
    exact congrArg _ (observe_txDump _ s rfl rfl (by decide))
  case throttle =>
    obtain ⟨hfits, rfl⟩ := encodeThrottleCommand_eq_some_iff.1 hf
    rw [throttleFrame_eq _ hfits]
    refine (observe_cons_of_decode (decodeWord_half (op := 0x11#8) rfl raw) (exec_txThr_of_le hfits) _).trans ?_
    exact congrArg _ (observe_txDump _ s rfl rfl (by decide))

/-! ### A byte that does not complete the frame (R170) -/

/-- Settles O35: the count does not reach the expected length, so the byte is stored and counted and no verdict is taken. -/
theorem rxByteTakesByte : Obligations.RxByteTakesByte := by
  intro b s
  refine ⟨decodeWord_ofNat_byte (op := 0x21#8) rfl b, fun ha hmore hfits hwf => ?_⟩
  have hcount : s.rxcnt + 1#8 = BitVec.ofNat 8 (s.rxcnt.toNat + 1) := by
    rw [BitVec.ofNat_add, BitVec.ofNat_toNat, BitVec.setWidth_eq]
  have hnum : (BitVec.ofNat 8 (s.rxcnt.toNat + 1)).toNat = s.rxcnt.toNat + 1 := Nat.mod_eq_of_lt (by omega)
  have hne : s.rxcnt + 1#8 ≠ s.rxexpqty := fun heq => by
    rw [← heq, hcount, hnum] at hmore
    omega
  rw [exec_rxByte, offerByte_eq_ite, if_pos ha, if_neg hne, countedByte_inside (by omega), hcount,
    remaining_of_le (by omega), hnum]
  exact ⟨_, rfl, rfl, Memory.read_write hwf _ b⟩

/-! ### Request frames (log entry 4) -/

/-- R204: an instruction presented next is the one that the next step runs. -/
theorem step_presentFirst {s : State} {e : Encoded} {i : Instr} (hdecode : decode s.cfg.params e = .ok i) :
    step (presentFirst e s) = exec i s :=
  step_of_decode (s := presentFirst e s) rfl hdecode

theorem issueCommands_txStatus (c : Byte) (s : State) :
    issueCommands [.txStatus c] s = presentFirst (.word (BitVec.ofNat 24 (0x100000 + c.toNat))) s := by
  rw [show 0x100000 = (0x10#8).toNat * 65536 from rfl, ← cmdWord_byteArg_eq_ofNat]
  rfl

theorem issueCommands_txThr (raw : Half) (s : State) :
    issueCommands [.txThr raw] s = presentFirst (.word (BitVec.ofNat 24 (0x110000 + raw.toNat))) s := by
  rw [show 0x110000 = (0x11#8).toNat * 65536 from rfl, cmdWord_ofNat _ _ raw.isLt, BitVec.ofNat_toNat,
    BitVec.setWidth_eq]
  rfl

/-- Settles O44: the row issues `TX.STATUS` of its code, a status code, and the next step runs it. -/
theorem requestStatusFramesAreBuilt : Obligations.RequestStatusFramesAreBuilt := by
  intro s i c hrow
  have hcode : isStatusCode s.cfg.params c = true := by
    rw [isStatusCode_iff_mem]
    exact List.mem_map_of_mem (f := Prod.snd) hrow
  have hissued : exec i s = .next (issueCommands [.txStatus c] s) := by
    simp only [List.mem_cons, List.not_mem_nil, or_false, Prod.mk.injEq] at hrow
    obtain ⟨rfl, rfl⟩ | ⟨rfl, rfl⟩ | ⟨rfl, rfl⟩ := hrow <;> rfl
  have hdecode := decode_word_of_ok (decodeWord_ofNat_byte (op := 0x10#8) rfl c) s.cfg.params
  rw [issueCommands_txStatus] at hissued
  refine ⟨_, _, hissued, rfl, (step_presentFirst hdecode).trans (exec_txStatus_of_isStatusCode hcode),
    completeWith_loadTx_eq _ _ _, Memory.read_ofBytes _⟩

/-- Settles O45: the row issues `TX.THR` of its throttle, and the next step runs it; well-formed is in the domain. -/
theorem requestSetValueFrameIsBuilt : Obligations.RequestSetValueFrameIsBuilt := by
  intro s raw f t
  have hstep : step t = exec (.txThr raw) s :=
    step_presentFirst (decode_word_of_ok (decodeWord_ofNat_half (op := 0x11#8) rfl raw) s.cfg.params)
  refine ⟨congrArg Host.Outcome.next (issueCommands_txThr raw s), fun hwf hencode => ?built, fun hwf => ?refused⟩
  case built =>
    have hfits : raw.toNat * s.cfg.params.thrFactor ≤ 0xFFFF := of_decide_eq_true hwf
    cases hencode
    rw [hstep, exec_txThr_of_le hfits, ← throttleFrame_eq s.cfg hfits, completeWith_loadTx_eq]
    exact ⟨_, rfl, rfl, Memory.read_ofBytes _⟩
  case refused =>
    have hover : 0xFFFF < raw.toNat * s.cfg.params.thrFactor := Nat.not_le.1 (of_decide_eq_false hwf)
    rw [hstep, exec_txThr_of_lt hover, raiseCause_eq]

/-! ### Response frames (log entry 5) -/

/-- Each response row issues the `RX.BYTE` commands of its own bytes (R50, R86). -/
theorem exec_response {i : Instr} {s : State} {f : List Byte} (hi : isResponse i = true)
    (hencode : encode s.cfg.params i = .frame .response f) : exec i s = .next (issueCommands (f.map .rxByte) s) := by
  cases i with
  | rspStatus1 | rspStatus2 | rspStatus3 | rspSetValueAck => cases hencode; rfl
  | _ => cases hi

theorem wordsOf_rxBytes (p : Params) (f : List Byte) :
    wordsOf p (f.map .rxByte) = f.map fun b => BitVec.ofNat 24 (0x210000 + b.toNat) := by
  induction f with
  | nil => rfl
  | cons b f ih =>
    rw [List.map_cons, List.map_cons, ← ih, show 0x210000 = (0x21#8).toNat * 65536 from rfl, ← cmdWord_byteArg_eq_ofNat]
    rfl

/-- A byte offered leaves the commands still queued where they are. -/
theorem offerByte_issueCommands (b : Byte) (is : List Instr) (s : State) :
    offerByte b (issueCommands is s) = issueCommands is (offerByte b s) := by
  obtain ⟨hframe, -⟩ := offerByte_frame b s
  have hqueue (u : State) : issueCommands is u = withAccPort u.acc (issueCommands is u).port u := rfl
  rw [hqueue s, offerByte_withAccPort, hqueue (offerByte b s), issueCommands_port, issueCommands_port, hframe.acc,
    hframe.port, hframe.cfg]

/-- The steps that execute the `RX.BYTE` commands issued for some bytes offer these bytes, and use the commands up. -/
theorem stepTimes_rxBytes (f : List Byte) (s : State) :
    stepTimes f.length (issueCommands (f.map .rxByte) s) = .next (offerBytes f s) := by
  induction f generalizing s with
  | nil => rfl
  | cons b f ih =>
    have hstep : step (issueCommands ((b :: f).map .rxByte) s) = .next (issueCommands (f.map .rxByte) (offerByte b s)) := by
      rw [← offerByte_issueCommands]
      exact step_presentFirst (s := issueCommands (f.map .rxByte) s)
        (decode_word_of_ok (decodeWord_byte (op := 0x21#8) rfl b) _)
    rw [List.length_cons, stepTimes, hstep]
    exact ih (offerByte b s)

/-- Settles O48: the queued words and the run of `RX.FEED` both offer the bytes of the frame. -/
theorem responseFrameIsItsByteCommands : Obligations.ResponseFrameIsItsByteCommands := by
  intro s i f hi hencode
  refine ⟨_, exec_response hi hencode, ?_, (stepTimes_rxBytes f s).trans (runWords_rxBytes _ f s).symm⟩
  rw [issueCommands, wordsOf_rxBytes, List.map_map]
  rfl

/-- R74, R75: a response frame begins with the quantity and the code of its row of R160, and a well-formed one has as many
bytes as its quantity says. -/
theorem response_header {cfg : Config} {i : Instr} {f : List Byte} (hi : isResponse i = true)
    (hencode : encode cfg.params i = .frame .response f) :
    ∃ q c, rspQty cfg.params c = some q ∧ f.head? = some q ∧ f[1]? = some c ∧
      (WellFormed cfg.params i = true → f.length = q.toNat) := by
  have hlen {q c : Byte} {payload : List Byte} {k : Byte} (hfits : payloadFits q payload = true) :
      ([q, c] ++ payload ++ [k]).length = q.toNat := by
    rw [← payloadFits_iff.1 hfits]
    simp only [List.length_append, List.length_cons, List.length_nil]
    omega
  cases i with
  | rspStatus1 payload k => cases hencode; exact ⟨_, _, rspQty_status1Code cfg, rfl, rfl, hlen⟩
  | rspStatus2 payload k => cases hencode; exact ⟨_, _, rspQty_status2Code cfg, rfl, rfl, hlen⟩
  | rspStatus3 payload k => cases hencode; exact ⟨_, _, rspQty_status3Code cfg, rfl, rfl, hlen⟩
  | rspSetValueAck k =>
    cases hencode
    exact ⟨_, _, rspQty_setValueCode cfg, rfl, rfl, fun hwf => (of_decide_eq_true hwf : _ = 3).symm⟩
  | _ => cases hi

/-- Settles O47: a response frame has bytes, and all of them are stray. -/
theorem responseFrameIsStrayWhenNotArmed : Obligations.ResponseFrameIsStrayWhenNotArmed := by
  intro s i f hi hencode hna
  obtain ⟨q, c, -, hhead, -, -⟩ := response_header hi hencode
  have hne : f ≠ [] := by rintro rfl; cases hhead
  refine ⟨_, exec_response hi hencode, (stepTimes_rxBytes f s).trans ?_⟩
  rw [offerBytes_stray hna hne]
  rfl

/-- R169 on a frame with the expected header: only the sum is left to test. -/
theorem verdict_of_header (sum q c : Byte) :
    verdict sum q c q c = if sum = 0x00#8 then .none else .checksumMismatch := by
  by_cases hsum : sum = 0x00#8 <;> simp [verdict_eq_ite, hsum]

/-- Settles O46: the bytes complete the frame that the block is armed for, and its header is the expected one. -/
theorem responseFrameIsTakenWhenArmed : Obligations.ResponseFrameIsTakenWhenArmed := by
  intro s i f hi hwf hencode ha hqty hcode hcnt hacc hbuf
  obtain ⟨q, c, hq, hhead, hsecond, hlen⟩ := response_header hi hencode
  obtain rfl : s.rxexpqty = q := Option.some_inj.1 (hqty.symm.trans hhead)
  obtain rfl : s.rxexpcode = c := Option.some_inj.1 (hcode.symm.trans hsecond)
  obtain ⟨-, hfits⟩ := rspQty_fits hq
  have hne : f ≠ [] := by rintro rfl; cases hhead
  have hcount : s.rxcnt.toNat + f.length = s.rxexpqty.toNat := by rw [hcnt, BitVec.toNat_zero, Nat.zero_add, hlen hwf]
  obtain ⟨m, -, -, hfinal⟩ := offerBytes_completing hne ha hcount hfits (hbuf ▸ Memory.empty_wf)
  have hheld : ∀ k, m.read k = f.getD k 0x00#8 := by
    have hjudged := judgedFrame_offerBytes ha hq (hlen hwf) hcnt hacc hbuf
    rw [hfinal] at hjudged
    exact hjudged.held
  have hread0 : m.read 0 = s.rxexpqty := by
    rw [hheld, List.getD_eq_getElem?_getD, ← List.head?_eq_getElem?, hqty, Option.getD_some]
  have hread1 : m.read 1 = s.rxexpcode := by
    rw [hheld, List.getD_eq_getElem?_getD, hcode, Option.getD_some]
  rw [hread0, hread1, hacc, BitVec.zero_add, verdict_of_header] at hfinal
  refine ⟨_, _, _, exec_response hi hencode, (stepTimes_rxBytes f s).trans (congrArg Host.Outcome.next hfinal), rfl, hheld,
    rfl⟩

end Sys2Proof.Machine
end
